-- ==== Sys2Proof/Word.lean ====
section
/-! DEFINITION. The machine word, the byte and the register index of the TX39 core (spec R9, R30, R100). -/

namespace Sys2Proof

/-- A 32-bit word: every general register, CP0 register, virtual and physical address (R9). -/
abbrev Word := BitVec 32

/-- The 8-bit byte, the unit of memory (R100). -/
abbrev Byte := BitVec 8

/-- A 5-bit index into a register file (R30, R38, R87). -/
abbrev RegIndex := BitVec 5

end Sys2Proof
end

