-- ==== Sys2Proof/Syntax.lean ====
section
/-! DEFINITION. The instructions of the TX39 core: one constructor for each row of spec/opcode_table.json, with the
fields of its encoding (R160 to R165, R182, R186). The field order is: base, rs, rt, rd, then the rest. -/

namespace Sys2Proof

/-- The instructions (R182). The docstring of a constructor gives the mnemonic and the rule. -/
inductive Instr where
  /-- SLL (R250). -/
  | sll (rt : RegIndex) (rd : RegIndex) (sa : BitVec 5)
  /-- SRL (R251). -/
  | srl (rt : RegIndex) (rd : RegIndex) (sa : BitVec 5)
  /-- SRA (R252). -/
  | sra (rt : RegIndex) (rd : RegIndex) (sa : BitVec 5)
  /-- SLLV (R253). -/
  | sllv (rs : RegIndex) (rt : RegIndex) (rd : RegIndex)
  /-- SRLV (R254). -/
  | srlv (rs : RegIndex) (rt : RegIndex) (rd : RegIndex)
  /-- SRAV (R255). -/
  | srav (rs : RegIndex) (rt : RegIndex) (rd : RegIndex)
  /-- JR (R308). -/
  | jr (rs : RegIndex)
  /-- JALR (R309). -/
  | jalr (rs : RegIndex) (rd : RegIndex)
  /-- SYSCALL (R341). -/
  | syscall (code : BitVec 20)
  /-- BREAK (R342). -/
  | brk (code : BitVec 20)
  /-- SDBBP (R343). -/
  | sdbbp (code : BitVec 20)
  /-- SYNC (R218). -/
  | sync
  /-- MFHI (R278). -/
  | mfhi (rd : RegIndex)
  /-- MTHI (R280). -/
  | mthi (rs : RegIndex)
  /-- MFLO (R279). -/
  | mflo (rd : RegIndex)
  /-- MTLO (R282). -/
  | mtlo (rs : RegIndex)
  /-- MULT (R271). -/
  | mult (rs : RegIndex) (rt : RegIndex) (rd : RegIndex)
  /-- MULTU (R272). -/
  | multu (rs : RegIndex) (rt : RegIndex) (rd : RegIndex)
  /-- DIV (R275). -/
  | div (rs : RegIndex) (rt : RegIndex)
  /-- DIVU (R277). -/
  | divu (rs : RegIndex) (rt : RegIndex)
  /-- ADD (R241). -/
  | add (rs : RegIndex) (rt : RegIndex) (rd : RegIndex)
  /-- ADDU (R242). -/
  | addu (rs : RegIndex) (rt : RegIndex) (rd : RegIndex)
  /-- SUB (R243). -/
  | sub (rs : RegIndex) (rt : RegIndex) (rd : RegIndex)
  /-- SUBU (R244). -/
  | subu (rs : RegIndex) (rt : RegIndex) (rd : RegIndex)
  /-- AND (R247). -/
  | and (rs : RegIndex) (rt : RegIndex) (rd : RegIndex)
  /-- OR (R248). -/
  | or (rs : RegIndex) (rt : RegIndex) (rd : RegIndex)
  /-- XOR (R248). -/
  | xor (rs : RegIndex) (rt : RegIndex) (rd : RegIndex)
  /-- NOR (R249). -/
  | nor (rs : RegIndex) (rt : RegIndex) (rd : RegIndex)
  /-- SLT (R245). -/
  | slt (rs : RegIndex) (rt : RegIndex) (rd : RegIndex)
  /-- SLTU (R246). -/
  | sltu (rs : RegIndex) (rt : RegIndex) (rd : RegIndex)
  /-- BLTZ (R315). -/
  | bltz (rs : RegIndex) (offset : BitVec 16)
  /-- BGEZ (R316). -/
  | bgez (rs : RegIndex) (offset : BitVec 16)
  /-- BLTZL (R323). -/
  | bltzl (rs : RegIndex) (offset : BitVec 16)
  /-- BGEZL (R324). -/
  | bgezl (rs : RegIndex) (offset : BitVec 16)
  /-- BLTZAL (R317). -/
  | bltzal (rs : RegIndex) (offset : BitVec 16)
  /-- BGEZAL (R318). -/
  | bgezal (rs : RegIndex) (offset : BitVec 16)
  /-- BLTZALL (R325). -/
  | bltzall (rs : RegIndex) (offset : BitVec 16)
  /-- BGEZALL (R326). -/
  | bgezall (rs : RegIndex) (offset : BitVec 16)
  /-- J (R306). -/
  | j (target : BitVec 26)
  /-- JAL (R307). -/
  | jal (target : BitVec 26)
  /-- BEQ (R311). -/
  | beq (rs : RegIndex) (rt : RegIndex) (offset : BitVec 16)
  /-- BNE (R312). -/
  | bne (rs : RegIndex) (rt : RegIndex) (offset : BitVec 16)
  /-- BLEZ (R313). -/
  | blez (rs : RegIndex) (offset : BitVec 16)
  /-- BGTZ (R314). -/
  | bgtz (rs : RegIndex) (offset : BitVec 16)
  /-- ADDI (R233). -/
  | addi (rs : RegIndex) (rt : RegIndex) (immediate : BitVec 16)
  /-- ADDIU (R234). -/
  | addiu (rs : RegIndex) (rt : RegIndex) (immediate : BitVec 16)
  /-- SLTI (R235). -/
  | slti (rs : RegIndex) (rt : RegIndex) (immediate : BitVec 16)
  /-- SLTIU (R236). -/
  | sltiu (rs : RegIndex) (rt : RegIndex) (immediate : BitVec 16)
  /-- ANDI (R237). -/
  | andi (rs : RegIndex) (rt : RegIndex) (immediate : BitVec 16)
  /-- ORI (R238). -/
  | ori (rs : RegIndex) (rt : RegIndex) (immediate : BitVec 16)
  /-- XORI (R239). -/
  | xori (rs : RegIndex) (rt : RegIndex) (immediate : BitVec 16)
  /-- LUI (R240). -/
  | lui (rt : RegIndex) (immediate : BitVec 16)
  /-- MFC0 (R380). -/
  | mfc0 (rt : RegIndex) (rd : RegIndex)
  /-- MFC1 (R356). -/
  | mfc1 (rt : RegIndex) (rd : RegIndex)
  /-- MFC2 (R356). -/
  | mfc2 (rt : RegIndex) (rd : RegIndex)
  /-- MFC3 (R356). -/
  | mfc3 (rt : RegIndex) (rd : RegIndex)
  /-- CFC0 (R357). -/
  | cfc0 (rt : RegIndex) (rd : RegIndex)
  /-- CFC1 (R353). -/
  | cfc1 (rt : RegIndex) (rd : RegIndex)
  /-- CFC2 (R353). -/
  | cfc2 (rt : RegIndex) (rd : RegIndex)
  /-- CFC3 (R353). -/
  | cfc3 (rt : RegIndex) (rd : RegIndex)
  /-- MTC0 (R381). -/
  | mtc0 (rt : RegIndex) (rd : RegIndex)
  /-- MTC1 (R352). -/
  | mtc1 (rt : RegIndex) (rd : RegIndex)
  /-- MTC2 (R352). -/
  | mtc2 (rt : RegIndex) (rd : RegIndex)
  /-- MTC3 (R352). -/
  | mtc3 (rt : RegIndex) (rd : RegIndex)
  /-- CTC0 (R357). -/
  | ctc0 (rt : RegIndex) (rd : RegIndex)
  /-- CTC1 (R354). -/
  | ctc1 (rt : RegIndex) (rd : RegIndex)
  /-- CTC2 (R354). -/
  | ctc2 (rt : RegIndex) (rd : RegIndex)
  /-- CTC3 (R354). -/
  | ctc3 (rt : RegIndex) (rd : RegIndex)
  /-- BC0F (R358). -/
  | bc0f (offset : BitVec 16)
  /-- BC1F (R358). -/
  | bc1f (offset : BitVec 16)
  /-- BC2F (R358). -/
  | bc2f (offset : BitVec 16)
  /-- BC3F (R358). -/
  | bc3f (offset : BitVec 16)
  /-- BC0T (R359). -/
  | bc0t (offset : BitVec 16)
  /-- BC1T (R359). -/
  | bc1t (offset : BitVec 16)
  /-- BC2T (R359). -/
  | bc2t (offset : BitVec 16)
  /-- BC3T (R359). -/
  | bc3t (offset : BitVec 16)
  /-- BC0FL (R360). -/
  | bc0fl (offset : BitVec 16)
  /-- BC1FL (R360). -/
  | bc1fl (offset : BitVec 16)
  /-- BC2FL (R360). -/
  | bc2fl (offset : BitVec 16)
  /-- BC3FL (R360). -/
  | bc3fl (offset : BitVec 16)
  /-- BC0TL (R361). -/
  | bc0tl (offset : BitVec 16)
  /-- BC1TL (R361). -/
  | bc1tl (offset : BitVec 16)
  /-- BC2TL (R361). -/
  | bc2tl (offset : BitVec 16)
  /-- BC3TL (R361). -/
  | bc3tl (offset : BitVec 16)
  /-- COP1 (R355). -/
  | cop1 (cofun : BitVec 25)
  /-- COP2 (R355). -/
  | cop2 (cofun : BitVec 25)
  /-- COP3 (R355). -/
  | cop3 (cofun : BitVec 25)
  /-- TLBR (R398). -/
  | tlbr
  /-- TLBWI (R398). -/
  | tlbwi
  /-- TLBWR (R398). -/
  | tlbwr
  /-- TLBP (R398). -/
  | tlbp
  /-- RFE (R386). -/
  | rfe
  /-- DERET (R388). -/
  | deret
  /-- BEQL (R319). -/
  | beql (rs : RegIndex) (rt : RegIndex) (offset : BitVec 16)
  /-- BNEL (R320). -/
  | bnel (rs : RegIndex) (rt : RegIndex) (offset : BitVec 16)
  /-- BLEZL (R321). -/
  | blezl (rs : RegIndex) (offset : BitVec 16)
  /-- BGTZL (R322). -/
  | bgtzl (rs : RegIndex) (offset : BitVec 16)
  /-- MADD (R273). -/
  | madd (rs : RegIndex) (rt : RegIndex) (rd : RegIndex)
  /-- MADDU (R274). -/
  | maddu (rs : RegIndex) (rt : RegIndex) (rd : RegIndex)
  /-- LB (R204). -/
  | lb (base : RegIndex) (rt : RegIndex) (offset : BitVec 16)
  /-- LH (R206). -/
  | lh (base : RegIndex) (rt : RegIndex) (offset : BitVec 16)
  /-- LWL (R209). -/
  | lwl (base : RegIndex) (rt : RegIndex) (offset : BitVec 16)
  /-- LW (R208). -/
  | lw (base : RegIndex) (rt : RegIndex) (offset : BitVec 16)
  /-- LBU (R205). -/
  | lbu (base : RegIndex) (rt : RegIndex) (offset : BitVec 16)
  /-- LHU (R207). -/
  | lhu (base : RegIndex) (rt : RegIndex) (offset : BitVec 16)
  /-- LWR (R210). -/
  | lwr (base : RegIndex) (rt : RegIndex) (offset : BitVec 16)
  /-- SB (R211). -/
  | sb (base : RegIndex) (rt : RegIndex) (offset : BitVec 16)
  /-- SH (R212). -/
  | sh (base : RegIndex) (rt : RegIndex) (offset : BitVec 16)
  /-- SWL (R216). -/
  | swl (base : RegIndex) (rt : RegIndex) (offset : BitVec 16)
  /-- SW (R213). -/
  | sw (base : RegIndex) (rt : RegIndex) (offset : BitVec 16)
  /-- SWR (R217). -/
  | swr (base : RegIndex) (rt : RegIndex) (offset : BitVec 16)
  /-- CACHE (R392). -/
  | cache (base : RegIndex) (op : BitVec 5) (offset : BitVec 16)
  /-- LWC1 (R364). -/
  | lwc1 (base : RegIndex) (rt : RegIndex) (offset : BitVec 16)
  /-- LWC2 (R364). -/
  | lwc2 (base : RegIndex) (rt : RegIndex) (offset : BitVec 16)
  /-- LWC3 (R364). -/
  | lwc3 (base : RegIndex) (rt : RegIndex) (offset : BitVec 16)
  /-- SWC1 (R364). -/
  | swc1 (base : RegIndex) (rt : RegIndex) (offset : BitVec 16)
  /-- SWC2 (R364). -/
  | swc2 (base : RegIndex) (rt : RegIndex) (offset : BitVec 16)
  /-- SWC3 (R364). -/
  | swc3 (base : RegIndex) (rt : RegIndex) (offset : BitVec 16)
  deriving DecidableEq, Repr

end Sys2Proof
end

