-- ==== Sys2Proof/Decode.lean ====
section
/-! DEFINITION. The decoder (R168 to R180), total on every word, and the encoder (R186).

Decoding is a table look-up in the order of R168; a word that is no instruction is sorted by name. -/

namespace Sys2Proof

/-- What a 32-bit word is. -/
inductive Decoded where
  /-- An instruction of the opcode table. -/
  | instr (i : Instr)
  /-- A `*` cell: raises Reserved Instruction (R177). -/
  | reserved
  /-- The `*` cell of the COP0 functions: Coprocessor Unusable first, then Reserved Instruction (R177, R180). -/
  | reservedCp0
  /-- An unnamed `φ` cell: a no-operation that needs CP0 usable (R179, D13). -/
  | mmuNop
  /-- A defined op and funct with a non-zero "0" field (R166, D11): no meaning. -/
  | zeroField
  /-- The same in an instruction word of coprocessor `z`, which is Coprocessor Unusable first (R180). -/
  | copZeroField (z : BitVec 2)
  /-- A `γ` cell: no meaning (R178, D12). -/
  | invalid
  deriving DecidableEq, Repr

/-! The fields of a word (R161 to R165). -/

/-- Bits 31:26. -/
def opField (w : Word) : BitVec 6 := w.extractLsb' 26 6
/-- Bits 25:21: rs, or base. -/
def rsField (w : Word) : RegIndex := w.extractLsb' 21 5
/-- Bits 20:16. -/
def rtField (w : Word) : RegIndex := w.extractLsb' 16 5
/-- Bits 15:11. -/
def rdField (w : Word) : RegIndex := w.extractLsb' 11 5
/-- Bits 10:6. -/
def saField (w : Word) : BitVec 5 := w.extractLsb' 6 5
/-- Bits 5:0. -/
def functField (w : Word) : BitVec 6 := w.extractLsb' 0 6
/-- Bits 15:0. -/
def immField (w : Word) : BitVec 16 := w.extractLsb' 0 16
/-- Bits 25:0. -/
def targetField (w : Word) : BitVec 26 := w.extractLsb' 0 26
/-- Bits 25:6. -/
def codeField (w : Word) : BitVec 20 := w.extractLsb' 6 20
/-- Bits 24:0. -/
def cofunField (w : Word) : BitVec 25 := w.extractLsb' 0 25

/-- An instruction whose "0" fields are zero when `zero` holds (R166). -/
def ifZero (zero : Bool) (i : Instr) : Decoded :=
  if zero then .instr i else .zeroField

/-- The same for an instruction of coprocessor `z`. -/
def ifCopZero (z : BitVec 2) (zero : Bool) (i : Instr) : Decoded :=
  if zero then .instr i else .copZeroField z

/-- SPECIAL, op = 000000, by funct (R170). -/
def decodeSpecial (rs rt rd : RegIndex) (sa : BitVec 5) (funct : BitVec 6) (code : BitVec 20) : Decoded :=
  if funct = 0b000000#6 then ifZero (rs == 0) (.sll rt rd sa)
  else if funct = 0b000010#6 then ifZero (rs == 0) (.srl rt rd sa)
  else if funct = 0b000011#6 then ifZero (rs == 0) (.sra rt rd sa)
  else if funct = 0b000100#6 then ifZero (sa == 0) (.sllv rs rt rd)
  else if funct = 0b000110#6 then ifZero (sa == 0) (.srlv rs rt rd)
  else if funct = 0b000111#6 then ifZero (sa == 0) (.srav rs rt rd)
  else if funct = 0b001000#6 then ifZero (rt == 0 && rd == 0 && sa == 0) (.jr rs)
  else if funct = 0b001001#6 then ifZero (rt == 0 && sa == 0) (.jalr rs rd)
  else if funct = 0b001100#6 then .instr (.syscall code)
  else if funct = 0b001101#6 then .instr (.brk code)
  else if funct = 0b001110#6 then .instr (.sdbbp code)
  else if funct = 0b001111#6 then ifZero (rs == 0 && rt == 0 && rd == 0 && sa == 0) .sync
  else if funct = 0b010000#6 then ifZero (rs == 0 && rt == 0 && sa == 0) (.mfhi rd)
  else if funct = 0b010001#6 then ifZero (rt == 0 && rd == 0 && sa == 0) (.mthi rs)
  else if funct = 0b010010#6 then ifZero (rs == 0 && rt == 0 && sa == 0) (.mflo rd)
  else if funct = 0b010011#6 then ifZero (rt == 0 && rd == 0 && sa == 0) (.mtlo rs)
  else if funct = 0b011000#6 then ifZero (sa == 0) (.mult rs rt rd)
  else if funct = 0b011001#6 then ifZero (sa == 0) (.multu rs rt rd)
  else if funct = 0b011010#6 then ifZero (rd == 0 && sa == 0) (.div rs rt)
  else if funct = 0b011011#6 then ifZero (rd == 0 && sa == 0) (.divu rs rt)
  else if funct = 0b100000#6 then ifZero (sa == 0) (.add rs rt rd)
  else if funct = 0b100001#6 then ifZero (sa == 0) (.addu rs rt rd)
  else if funct = 0b100010#6 then ifZero (sa == 0) (.sub rs rt rd)
  else if funct = 0b100011#6 then ifZero (sa == 0) (.subu rs rt rd)
  else if funct = 0b100100#6 then ifZero (sa == 0) (.and rs rt rd)
  else if funct = 0b100101#6 then ifZero (sa == 0) (.or rs rt rd)
  else if funct = 0b100110#6 then ifZero (sa == 0) (.xor rs rt rd)
  else if funct = 0b100111#6 then ifZero (sa == 0) (.nor rs rt rd)
  else if funct = 0b101010#6 then ifZero (sa == 0) (.slt rs rt rd)
  else if funct = 0b101011#6 then ifZero (sa == 0) (.sltu rs rt rd)
  else .reserved

/-- BCOND, op = 000001, by the rt field (R171). -/
def decodeBcond (rs rt : RegIndex) (offset : BitVec 16) : Decoded :=
  if rt = 0b00000#5 then .instr (.bltz rs offset)
  else if rt = 0b00001#5 then .instr (.bgez rs offset)
  else if rt = 0b00010#5 then .instr (.bltzl rs offset)
  else if rt = 0b00011#5 then .instr (.bgezl rs offset)
  else if rt = 0b10000#5 then .instr (.bltzal rs offset)
  else if rt = 0b10001#5 then .instr (.bgezal rs offset)
  else if rt = 0b10010#5 then .instr (.bltzall rs offset)
  else if rt = 0b10011#5 then .instr (.bgezall rs offset)
  else .invalid

/-- One instruction for each coprocessor number. -/
def byCop (z : BitVec 2) (i0 i1 i2 i3 : Instr) : Instr :=
  if z = 0#2 then i0 else if z = 1#2 then i1 else if z = 2#2 then i2 else i3

/-- COPz with rs = BC, by the rt field (R173). -/
def decodeCopBranch (z : BitVec 2) (rt : RegIndex) (offset : BitVec 16) : Decoded :=
  if rt = 0b00000#5 then .instr (byCop z (.bc0f offset) (.bc1f offset) (.bc2f offset) (.bc3f offset))
  else if rt = 0b00001#5 then .instr (byCop z (.bc0t offset) (.bc1t offset) (.bc2t offset) (.bc3t offset))
  else if rt = 0b00010#5 then .instr (byCop z (.bc0fl offset) (.bc1fl offset) (.bc2fl offset) (.bc3fl offset))
  else if rt = 0b00011#5 then .instr (byCop z (.bc0tl offset) (.bc1tl offset) (.bc2tl offset) (.bc3tl offset))
  else .invalid

/-- The CP0 functions, op = COP0 with bit 25 = 1, by funct (R174). `zero` says that bits 24:6 are zero. -/
def decodeCp0 (zero : Bool) (funct : BitVec 6) : Decoded :=
  if funct = 0b000001#6 then ifCopZero 0#2 zero .tlbr
  else if funct = 0b000010#6 then ifCopZero 0#2 zero .tlbwi
  else if funct = 0b000110#6 then ifCopZero 0#2 zero .tlbwr
  else if funct = 0b001000#6 then ifCopZero 0#2 zero .tlbp
  else if funct = 0b010000#6 then ifCopZero 0#2 zero .rfe
  else if funct = 0b011111#6 then ifCopZero 0#2 zero .deret
  else if funct = 0b011000#6 then .reservedCp0
  else .mmuNop

/-- COPz, op = 0100zz, by the rs field (R172). -/
def decodeCop (z : BitVec 2) (w : Word) : Decoded :=
  let rs := rsField w
  let rt := rtField w
  let rd := rdField w
  let zero := w.extractLsb' 0 11 == 0
  if rs = 0b00000#5 then ifCopZero z zero (byCop z (.mfc0 rt rd) (.mfc1 rt rd) (.mfc2 rt rd) (.mfc3 rt rd))
  else if rs = 0b00010#5 then ifCopZero z zero (byCop z (.cfc0 rt rd) (.cfc1 rt rd) (.cfc2 rt rd) (.cfc3 rt rd))
  else if rs = 0b00100#5 then ifCopZero z zero (byCop z (.mtc0 rt rd) (.mtc1 rt rd) (.mtc2 rt rd) (.mtc3 rt rd))
  else if rs = 0b00110#5 then ifCopZero z zero (byCop z (.ctc0 rt rd) (.ctc1 rt rd) (.ctc2 rt rd) (.ctc3 rt rd))
  else if rs = 0b01000#5 then decodeCopBranch z rt (immField w)
  else if w.getLsbD 25 then
    if z = 0#2 then decodeCp0 (w.extractLsb' 6 19 == 0) (functField w)
    else if z = 1#2 then .instr (.cop1 (cofunField w))
    else if z = 2#2 then .instr (.cop2 (cofunField w))
    else .instr (.cop3 (cofunField w))
  else .invalid

/-- Op = 011100, by funct (R175). -/
def decodeMadd (rs rt rd : RegIndex) (sa : BitVec 5) (funct : BitVec 6) : Decoded :=
  if funct = 0b000000#6 then ifZero (sa == 0) (.madd rs rt rd)
  else if funct = 0b000001#6 then ifZero (sa == 0) (.maddu rs rt rd)
  else .invalid

/-- The decoder: the primary opcode map (R169). -/
def decode (w : Word) : Decoded :=
  let op := opField w
  let rs := rsField w
  let rt := rtField w
  let imm := immField w
  if op = 0b000000#6 then decodeSpecial rs rt (rdField w) (saField w) (functField w) (codeField w)
  else if op = 0b000001#6 then decodeBcond rs rt imm
  else if op = 0b000010#6 then .instr (.j (targetField w))
  else if op = 0b000011#6 then .instr (.jal (targetField w))
  else if op = 0b000100#6 then .instr (.beq rs rt imm)
  else if op = 0b000101#6 then .instr (.bne rs rt imm)
  else if op = 0b000110#6 then ifZero (rt == 0) (.blez rs imm)
  else if op = 0b000111#6 then ifZero (rt == 0) (.bgtz rs imm)
  else if op = 0b001000#6 then .instr (.addi rs rt imm)
  else if op = 0b001001#6 then .instr (.addiu rs rt imm)
  else if op = 0b001010#6 then .instr (.slti rs rt imm)
  else if op = 0b001011#6 then .instr (.sltiu rs rt imm)
  else if op = 0b001100#6 then .instr (.andi rs rt imm)
  else if op = 0b001101#6 then .instr (.ori rs rt imm)
  else if op = 0b001110#6 then .instr (.xori rs rt imm)
  else if op = 0b001111#6 then ifZero (rs == 0) (.lui rt imm)
  else if op = 0b010000#6 then decodeCop 0#2 w
  else if op = 0b010001#6 then decodeCop 1#2 w
  else if op = 0b010010#6 then decodeCop 2#2 w
  else if op = 0b010011#6 then decodeCop 3#2 w
  else if op = 0b010100#6 then .instr (.beql rs rt imm)
  else if op = 0b010101#6 then .instr (.bnel rs rt imm)
  else if op = 0b010110#6 then ifZero (rt == 0) (.blezl rs imm)
  else if op = 0b010111#6 then ifZero (rt == 0) (.bgtzl rs imm)
  else if op = 0b011100#6 then decodeMadd rs rt (rdField w) (saField w) (functField w)
  else if op = 0b100000#6 then .instr (.lb rs rt imm)
  else if op = 0b100001#6 then .instr (.lh rs rt imm)
  else if op = 0b100010#6 then .instr (.lwl rs rt imm)
  else if op = 0b100011#6 then .instr (.lw rs rt imm)
  else if op = 0b100100#6 then .instr (.lbu rs rt imm)
  else if op = 0b100101#6 then .instr (.lhu rs rt imm)
  else if op = 0b100110#6 then .instr (.lwr rs rt imm)
  else if op = 0b101000#6 then .instr (.sb rs rt imm)
  else if op = 0b101001#6 then .instr (.sh rs rt imm)
  else if op = 0b101010#6 then .instr (.swl rs rt imm)
  else if op = 0b101011#6 then .instr (.sw rs rt imm)
  else if op = 0b101110#6 then .instr (.swr rs rt imm)
  else if op = 0b101111#6 then .instr (.cache rs rt imm)
  else if op = 0b110001#6 then .instr (.lwc1 rs rt imm)
  else if op = 0b110010#6 then .instr (.lwc2 rs rt imm)
  else if op = 0b110011#6 then .instr (.lwc3 rs rt imm)
  else if op = 0b111001#6 then .instr (.swc1 rs rt imm)
  else if op = 0b111010#6 then .instr (.swc2 rs rt imm)
  else if op = 0b111011#6 then .instr (.swc3 rs rt imm)
  else .reserved

/-- The word that four bytes at rising addresses make in a byte order (R102, R107). -/
def wordOfBytes (big : Bool) (b0 b1 b2 b3 : Byte) : Word :=
  if big then b0 ++ b1 ++ b2 ++ b3 else b3 ++ b2 ++ b1 ++ b0

/-- The byte of a word at offset 0 to 3 in a byte order, the inverse of `wordOfBytes` (R102). -/
def byteOfWord (big : Bool) (w : Word) (k : Nat) : Byte :=
  w.extractLsb' (8 * (if big then 3 - k else k)) 8

/-- The decoder on the bytes of memory from the instruction's address on: four bytes make an instruction (R160),
fewer make none. -/
def decodeBytes (big : Bool) : List Byte → Option Decoded
  | b0 :: b1 :: b2 :: b3 :: _ => some (decode (wordOfBytes big b0 b1 b2 b3))
  | _ => none

/-- The instruction of a decoded word, if it is one. -/
def Decoded.toInstr? : Decoded → Option Instr
  | .instr i => some i
  | _ => none

/-- The instruction read from the low `nbits` bits of `w`, the bits above being zero: the word is laid out in the
byte order of the default product (big endian) and given to the decoder. -/
def decodeTableWord (nbits w : Nat) : Option Instr :=
  let word := BitVec.ofNat 32 (w % 2 ^ nbits)
  match decodeBytes true [byteOfWord true word 0, byteOfWord true word 1, byteOfWord true word 2,
      byteOfWord true word 3] with
  | some d => d.toInstr?
  | none => none

/-! The encoder (R161 to R165, R186). -/

/-- An I-type word. -/
def joinI (op : BitVec 6) (rs rt : RegIndex) (imm : BitVec 16) : Word := op ++ rs ++ rt ++ imm
/-- A J-type word. -/
def joinJ (op : BitVec 6) (target : BitVec 26) : Word := op ++ target
/-- An R-type word. -/
def joinR (op : BitVec 6) (rs rt rd : RegIndex) (sa : BitVec 5) (funct : BitVec 6) : Word :=
  op ++ rs ++ rt ++ rd ++ sa ++ funct
/-- A word with a 20-bit code. -/
def joinCode (op : BitVec 6) (code : BitVec 20) (funct : BitVec 6) : Word := op ++ code ++ funct
/-- A coprocessor operation: op, bit 25 = 1, cofun. -/
def joinCop (op : BitVec 6) (cofun : BitVec 25) : Word := op ++ 1#1 ++ cofun

/-- The word of an instruction (R186). -/
def encode : Instr → Word
  | .sll rt rd sa => joinR 0b000000#6 0b00000#5 rt rd sa 0b000000#6
  | .srl rt rd sa => joinR 0b000000#6 0b00000#5 rt rd sa 0b000010#6
  | .sra rt rd sa => joinR 0b000000#6 0b00000#5 rt rd sa 0b000011#6
  | .sllv rs rt rd => joinR 0b000000#6 rs rt rd 0b00000#5 0b000100#6
  | .srlv rs rt rd => joinR 0b000000#6 rs rt rd 0b00000#5 0b000110#6
  | .srav rs rt rd => joinR 0b000000#6 rs rt rd 0b00000#5 0b000111#6
  | .jr rs => joinR 0b000000#6 rs 0b00000#5 0b00000#5 0b00000#5 0b001000#6
  | .jalr rs rd => joinR 0b000000#6 rs 0b00000#5 rd 0b00000#5 0b001001#6
  | .syscall code => joinCode 0b000000#6 code 0b001100#6
  | .brk code => joinCode 0b000000#6 code 0b001101#6
  | .sdbbp code => joinCode 0b000000#6 code 0b001110#6
  | .sync => joinR 0b000000#6 0b00000#5 0b00000#5 0b00000#5 0b00000#5 0b001111#6
  | .mfhi rd => joinR 0b000000#6 0b00000#5 0b00000#5 rd 0b00000#5 0b010000#6
  | .mthi rs => joinR 0b000000#6 rs 0b00000#5 0b00000#5 0b00000#5 0b010001#6
  | .mflo rd => joinR 0b000000#6 0b00000#5 0b00000#5 rd 0b00000#5 0b010010#6
  | .mtlo rs => joinR 0b000000#6 rs 0b00000#5 0b00000#5 0b00000#5 0b010011#6
  | .mult rs rt rd => joinR 0b000000#6 rs rt rd 0b00000#5 0b011000#6
  | .multu rs rt rd => joinR 0b000000#6 rs rt rd 0b00000#5 0b011001#6
  | .div rs rt => joinR 0b000000#6 rs rt 0b00000#5 0b00000#5 0b011010#6
  | .divu rs rt => joinR 0b000000#6 rs rt 0b00000#5 0b00000#5 0b011011#6
  | .add rs rt rd => joinR 0b000000#6 rs rt rd 0b00000#5 0b100000#6
  | .addu rs rt rd => joinR 0b000000#6 rs rt rd 0b00000#5 0b100001#6
  | .sub rs rt rd => joinR 0b000000#6 rs rt rd 0b00000#5 0b100010#6
  | .subu rs rt rd => joinR 0b000000#6 rs rt rd 0b00000#5 0b100011#6
  | .and rs rt rd => joinR 0b000000#6 rs rt rd 0b00000#5 0b100100#6
  | .or rs rt rd => joinR 0b000000#6 rs rt rd 0b00000#5 0b100101#6
  | .xor rs rt rd => joinR 0b000000#6 rs rt rd 0b00000#5 0b100110#6
  | .nor rs rt rd => joinR 0b000000#6 rs rt rd 0b00000#5 0b100111#6
  | .slt rs rt rd => joinR 0b000000#6 rs rt rd 0b00000#5 0b101010#6
  | .sltu rs rt rd => joinR 0b000000#6 rs rt rd 0b00000#5 0b101011#6
  | .bltz rs offset => joinI 0b000001#6 rs 0b00000#5 offset
  | .bgez rs offset => joinI 0b000001#6 rs 0b00001#5 offset
  | .bltzl rs offset => joinI 0b000001#6 rs 0b00010#5 offset
  | .bgezl rs offset => joinI 0b000001#6 rs 0b00011#5 offset
  | .bltzal rs offset => joinI 0b000001#6 rs 0b10000#5 offset
  | .bgezal rs offset => joinI 0b000001#6 rs 0b10001#5 offset
  | .bltzall rs offset => joinI 0b000001#6 rs 0b10010#5 offset
  | .bgezall rs offset => joinI 0b000001#6 rs 0b10011#5 offset
  | .j target => joinJ 0b000010#6 target
  | .jal target => joinJ 0b000011#6 target
  | .beq rs rt offset => joinI 0b000100#6 rs rt offset
  | .bne rs rt offset => joinI 0b000101#6 rs rt offset
  | .blez rs offset => joinI 0b000110#6 rs 0b00000#5 offset
  | .bgtz rs offset => joinI 0b000111#6 rs 0b00000#5 offset
  | .addi rs rt immediate => joinI 0b001000#6 rs rt immediate
  | .addiu rs rt immediate => joinI 0b001001#6 rs rt immediate
  | .slti rs rt immediate => joinI 0b001010#6 rs rt immediate
  | .sltiu rs rt immediate => joinI 0b001011#6 rs rt immediate
  | .andi rs rt immediate => joinI 0b001100#6 rs rt immediate
  | .ori rs rt immediate => joinI 0b001101#6 rs rt immediate
  | .xori rs rt immediate => joinI 0b001110#6 rs rt immediate
  | .lui rt immediate => joinI 0b001111#6 0b00000#5 rt immediate
  | .mfc0 rt rd => joinR 0b010000#6 0b00000#5 rt rd 0b00000#5 0b000000#6
  | .mfc1 rt rd => joinR 0b010001#6 0b00000#5 rt rd 0b00000#5 0b000000#6
  | .mfc2 rt rd => joinR 0b010010#6 0b00000#5 rt rd 0b00000#5 0b000000#6
  | .mfc3 rt rd => joinR 0b010011#6 0b00000#5 rt rd 0b00000#5 0b000000#6
  | .cfc0 rt rd => joinR 0b010000#6 0b00010#5 rt rd 0b00000#5 0b000000#6
  | .cfc1 rt rd => joinR 0b010001#6 0b00010#5 rt rd 0b00000#5 0b000000#6
  | .cfc2 rt rd => joinR 0b010010#6 0b00010#5 rt rd 0b00000#5 0b000000#6
  | .cfc3 rt rd => joinR 0b010011#6 0b00010#5 rt rd 0b00000#5 0b000000#6
  | .mtc0 rt rd => joinR 0b010000#6 0b00100#5 rt rd 0b00000#5 0b000000#6
  | .mtc1 rt rd => joinR 0b010001#6 0b00100#5 rt rd 0b00000#5 0b000000#6
  | .mtc2 rt rd => joinR 0b010010#6 0b00100#5 rt rd 0b00000#5 0b000000#6
  | .mtc3 rt rd => joinR 0b010011#6 0b00100#5 rt rd 0b00000#5 0b000000#6
  | .ctc0 rt rd => joinR 0b010000#6 0b00110#5 rt rd 0b00000#5 0b000000#6
  | .ctc1 rt rd => joinR 0b010001#6 0b00110#5 rt rd 0b00000#5 0b000000#6
  | .ctc2 rt rd => joinR 0b010010#6 0b00110#5 rt rd 0b00000#5 0b000000#6
  | .ctc3 rt rd => joinR 0b010011#6 0b00110#5 rt rd 0b00000#5 0b000000#6
  | .bc0f offset => joinI 0b010000#6 0b01000#5 0b00000#5 offset
  | .bc1f offset => joinI 0b010001#6 0b01000#5 0b00000#5 offset
  | .bc2f offset => joinI 0b010010#6 0b01000#5 0b00000#5 offset
  | .bc3f offset => joinI 0b010011#6 0b01000#5 0b00000#5 offset
  | .bc0t offset => joinI 0b010000#6 0b01000#5 0b00001#5 offset
  | .bc1t offset => joinI 0b010001#6 0b01000#5 0b00001#5 offset
  | .bc2t offset => joinI 0b010010#6 0b01000#5 0b00001#5 offset
  | .bc3t offset => joinI 0b010011#6 0b01000#5 0b00001#5 offset
  | .bc0fl offset => joinI 0b010000#6 0b01000#5 0b00010#5 offset
  | .bc1fl offset => joinI 0b010001#6 0b01000#5 0b00010#5 offset
  | .bc2fl offset => joinI 0b010010#6 0b01000#5 0b00010#5 offset
  | .bc3fl offset => joinI 0b010011#6 0b01000#5 0b00010#5 offset
  | .bc0tl offset => joinI 0b010000#6 0b01000#5 0b00011#5 offset
  | .bc1tl offset => joinI 0b010001#6 0b01000#5 0b00011#5 offset
  | .bc2tl offset => joinI 0b010010#6 0b01000#5 0b00011#5 offset
  | .bc3tl offset => joinI 0b010011#6 0b01000#5 0b00011#5 offset
  | .cop1 cofun => joinCop 0b010001#6 cofun
  | .cop2 cofun => joinCop 0b010010#6 cofun
  | .cop3 cofun => joinCop 0b010011#6 cofun
  | .tlbr => joinR 0b010000#6 0b10000#5 0b00000#5 0b00000#5 0b00000#5 0b000001#6
  | .tlbwi => joinR 0b010000#6 0b10000#5 0b00000#5 0b00000#5 0b00000#5 0b000010#6
  | .tlbwr => joinR 0b010000#6 0b10000#5 0b00000#5 0b00000#5 0b00000#5 0b000110#6
  | .tlbp => joinR 0b010000#6 0b10000#5 0b00000#5 0b00000#5 0b00000#5 0b001000#6
  | .rfe => joinR 0b010000#6 0b10000#5 0b00000#5 0b00000#5 0b00000#5 0b010000#6
  | .deret => joinR 0b010000#6 0b10000#5 0b00000#5 0b00000#5 0b00000#5 0b011111#6
  | .beql rs rt offset => joinI 0b010100#6 rs rt offset
  | .bnel rs rt offset => joinI 0b010101#6 rs rt offset
  | .blezl rs offset => joinI 0b010110#6 rs 0b00000#5 offset
  | .bgtzl rs offset => joinI 0b010111#6 rs 0b00000#5 offset
  | .madd rs rt rd => joinR 0b011100#6 rs rt rd 0b00000#5 0b000000#6
  | .maddu rs rt rd => joinR 0b011100#6 rs rt rd 0b00000#5 0b000001#6
  | .lb base rt offset => joinI 0b100000#6 base rt offset
  | .lh base rt offset => joinI 0b100001#6 base rt offset
  | .lwl base rt offset => joinI 0b100010#6 base rt offset
  | .lw base rt offset => joinI 0b100011#6 base rt offset
  | .lbu base rt offset => joinI 0b100100#6 base rt offset
  | .lhu base rt offset => joinI 0b100101#6 base rt offset
  | .lwr base rt offset => joinI 0b100110#6 base rt offset
  | .sb base rt offset => joinI 0b101000#6 base rt offset
  | .sh base rt offset => joinI 0b101001#6 base rt offset
  | .swl base rt offset => joinI 0b101010#6 base rt offset
  | .sw base rt offset => joinI 0b101011#6 base rt offset
  | .swr base rt offset => joinI 0b101110#6 base rt offset
  | .cache base op offset => joinI 0b101111#6 base op offset
  | .lwc1 base rt offset => joinI 0b110001#6 base rt offset
  | .lwc2 base rt offset => joinI 0b110010#6 base rt offset
  | .lwc3 base rt offset => joinI 0b110011#6 base rt offset
  | .swc1 base rt offset => joinI 0b111001#6 base rt offset
  | .swc2 base rt offset => joinI 0b111010#6 base rt offset
  | .swc3 base rt offset => joinI 0b111011#6 base rt offset

end Sys2Proof
end

