-- ==== Sys2Proof/Machine/Bits.lean ====
section
/-! DEFINITION. Bit helpers over words (R14, R15). -/

namespace Sys2Proof.Machine

/-- Bits of `new` where `mask` is 1, bits of `old` elsewhere: a masked register write (R39). -/
def maskWrite (mask old new : Word) : Word := (old &&& ~~~mask) ||| (new &&& mask)

/-- `old` with the `n` bits from bit `lo` on replaced by `v`. -/
def setBits (lo : Nat) {n : Nat} (v : BitVec n) (old : Word) : Word :=
  maskWrite ((BitVec.allOnes n).setWidth 32 <<< lo) old (v.setWidth 32 <<< lo)

/-- A Bool as a word with the bit at `position`. -/
def bitAt (position : Nat) (b : Bool) : Word := if b then 1#32 <<< position else 0#32

/-- A bit vector with bit `i` set or cleared. -/
def withBit {n : Nat} (v : BitVec n) (i : Nat) (b : Bool) : BitVec n :=
  if b then v ||| (1#n <<< i) else v &&& ~~~(1#n <<< i)

/-- A comparison result: 1 or 0 (R37). -/
def boolWord (b : Bool) : Word := if b then 1#32 else 0#32

/-- `sext_16` (R16, R167). -/
def sext16 (v : BitVec 16) : Word := v.signExtend 32

/-- `zext_16` (R16, R167). -/
def zext16 (v : BitVec 16) : Word := v.setWidth 32

/-- The branch displacement `(offset[15])^14 || offset || 0^2` (R167, R302). -/
def branchDisplacement (offset : BitVec 16) : Word := sext16 offset <<< (2 : Nat)

end Sys2Proof.Machine
end

