-- ==== Sys2Proof/Config.lean ====
section
/-! DEFINITION. What a product or platform fixes (R10 to R12, D7), and the free values: what the spec calls
undefined, unstated or a race, as constants without a body, so that no proof can know one. -/

namespace Sys2Proof

/-- What answers in a region of the physical address space (D7). -/
inductive RegionKind where
  /-- Reads and writes act on memory. -/
  | ram
  /-- Reads act on memory; a store on the bus is dropped. -/
  | rom
  /-- `DEVICE(handler)`: reads and writes go to the handler of this number (`Config.deviceRead`). -/
  | device (handler : Nat)
  deriving DecidableEq, Repr

/-- One region of `PhysMap` (D7): the physical addresses `base` to `base + size - 1`. -/
structure Region where
  base : Nat
  size : Nat
  kind : RegionKind
  deriving DecidableEq, Repr

/-- One bus access to devices, by the physical addresses of the bytes or words that lie in device regions (R153). -/
inductive DeviceAccess where
  /-- An uncached load: the bytes of its own size and lanes (R105). -/
  | load (bytes : List Nat)
  /-- A data cache refill: the words of the block. -/
  | refill (words : List Nat)
  /-- An instruction fetch, or an instruction cache refill: the words of the block. -/
  | fetch (words : List Nat)
  /-- A bus write: the bytes and what is written to them. -/
  | store (bytes : List (Nat × Byte))
  deriving DecidableEq, Repr

/-- The bit positions of the Debug register fields whose figure is lost (R81, N2). DBp is bit 1 and DSS bit 0. -/
structure DebugPositions where
  dbd : Nat
  dm : Nat
  nis : Nat
  oes : Nat
  tlf : Nat
  bsf : Nat
  sst : Nat
  /-- The bits marked "<R>": read as any value (U25). -/
  reserved : List Nat
  deriving DecidableEq, Repr

/-- The parameters a product fixes (R10, R11, D7, D21). Constant while the core runs, but for `bigEndianMem`, which
a Reset samples (R10). -/
structure Product where
  /-- Byte order of the memory interface and of kernel mode (R10, R101). -/
  bigEndianMem : Bool
  /-- Config.ICS, code of the instruction cache size; the codes 1xx are reserved (R66, U22), so two bits. -/
  ics : BitVec 2
  /-- Config.DCS, code of the data cache size, likewise. -/
  dcs : BitVec 2
  /-- PRId.Rev (R11, R62). -/
  rev : Byte
  /-- Log2 of the number of ways of the instruction cache, `W` of R393 (N14). -/
  icacheWaysLog2 : Nat
  /-- The data cache way that a cleared LRU bit designates (R395: in the lost part of the manual). -/
  lruZeroWay : Bool
  /-- Whether coprocessor 1, 2, 3 is attached, bit z for coprocessor z (D21); bit 0 is not used. -/
  cpPresent : BitVec 4
  debugPositions : DebugPositions
  /-- The memory map (R118, D7). -/
  physMap : List Region
  deriving DecidableEq, Repr

/-- The registers of an external coprocessor as the core sees them: CPR[z, 0..31] and CCR[z, 0..31] (R87, R351). -/
structure Coprocessor where
  gpr : Vector Word 32
  ctl : Vector Word 32
  deriving DecidableEq, Repr, Inhabited

/-- What a Reset leaves undefined (R500, U21), one name each. -/
inductive ResetItem where
  | gpr (index : Nat)
  | hi
  | lo
  | status
  | cause
  | epc
  | badVAddr
  | cache
  | debug
  | depc
  | copGpr (z index : Nat)
  | copCtl (z index : Nat)
  deriving DecidableEq, Repr

/-- The purposes for which a free value is drawn. -/
inductive Draw where
  /-- LO and HI of a division by zero or of the overflowing division (U3, D15). -/
  | divideLo
  | divideHi
  /-- LO after MTHI, HI after MTLO, while a division may be running (U4). -/
  | abandonedLo
  | abandonedHi
  /-- MFC0 of a reserved register (U2, D2). -/
  | reservedCp0
  /-- The "<R>" bits of Debug (U25). -/
  | debugReserved
  /-- A read of an absent coprocessor (D21). -/
  | absentCoprocessor
  /-- The destination of a load that met a bus error (U18). -/
  | failedLoad
  /-- Cause.CE where it is unspecified, and Cause.ExcCode after NmI (U17). -/
  | causeCe
  | causeCode
  /-- EPC and Cause.BD of a bus error outside the guaranteed cases (U19, R462). -/
  | busErrorEpc
  | busErrorBd
  /-- A register after Reset (U21). -/
  | reset (item : ResetItem)
  deriving DecidableEq, Repr

/-- The races: outcomes for which the spec allows two answers. -/
inductive Race where
  /-- Whether coprocessor `z` uses the old CU bit in its write window (R525). -/
  | coprocessorUsable (z : Nat)
  /-- Whether the old KUc bit is used in its write window (R529). -/
  | mode
  /-- Whether the old BEV bit is used in its write window (R527). -/
  | vector
  /-- Whether an interrupt just enabled is taken one boundary early (R528). -/
  | interrupt
  /-- Whether a late data bus error is reported at this boundary (R462, D28). -/
  | lateBusError
  /-- Whether a line of the instruction cache that was filled has been replaced since (N14). -/
  | lineReplaced (line : Nat)
  deriving DecidableEq, Repr

/-- The free value of a purpose at a count of draws. No body: nothing is known of it. -/
opaque Config.freeWord : Draw → Nat → Word

/-- The outcome of a race at a count of draws. No body. -/
opaque Config.race : Race → Nat → Bool

/-- The LRU bits of the data cache after a Reset, bit i for set i: undefined, drawn once (R500, U21). No body. -/
opaque Config.freeLru : Nat → BitVec 1024

/-- What the handler of a device answers to a read of one word (D7): it may depend on every earlier access to the
devices, oldest first, and on the moment. The platform supplies it; no source says more (R489, N26). No body. -/
opaque Config.deviceRead : (handler : Nat) → (history : List DeviceAccess) → (draw : Nat) → (word : Nat) → Word

/-- `CopOp` of R351 and D22: what `COPz cofun` does to the registers and the condition output of coprocessor `z`.
The platform supplies it; it may depend on the moment. No body. -/
opaque Config.copOp : (z : Nat) → (cofun : BitVec 25) → (draw : Nat) → Coprocessor → Bool → Coprocessor × Bool

end Sys2Proof
end

