-- ==== Sys2Proof/Machine/Defaults.lean ====
section
/-! DEFINITION. The parameters that `State.reset` takes, and the values it gives to what the spec leaves without a
reset value (log entries 1 to 6). -/

namespace Sys2Proof.Machine

/-- The reset vector (R500, R34). -/
def resetVector : Word := 0xBFC00000#32

/-- A register with no stated reset value holds zero in `State.reset`. DESIGN CHOICE (log entry 1), unsafe; the Reset
move of a run gives a free value instead. -/
def unstatedWord : Word := 0#32

/-- Suggested Debug positions G3. PRESUMED (log entry 5): only DBp = 1 and DSS = 0 are in the text. -/
def defaultDebugPositions : DebugPositions :=
  { dbd := 31, dm := 30, nis := 14, oes := 12, tlf := 11, bsf := 10, sst := 8, reserved := [13] }

/-- The default memory map of D7: RAM at physical 0, ROM at physical 0x1FC0_0000, nothing else. The sizes are a
DESIGN CHOICE (log entry 3): RAM up to the ROM, and a ROM of 4 Mbyte, the rest of the 512 Mbyte of kseg0 and kseg1. -/
def defaultMap : List Region :=
  [{ base := 0x00000000, size := 0x1FC00000, kind := .ram },
   { base := 0x1FC00000, size := 0x00400000, kind := .rom }]

/-- The default product: big endian, ICS and DCS code 000 (the 1 Kbyte caches of R135), Rev 0, no coprocessor. DESIGN
CHOICE (log entry 4): every one of these is a parameter of the spec. -/
def defaultProduct : Product :=
  { bigEndianMem := true, ics := 0, dcs := 0, rev := 0, icacheWaysLog2 := 0, lruZeroWay := false, cpPresent := 0,
    debugPositions := defaultDebugPositions, physMap := defaultMap }

/-- Status after Reset: BEV = 1 and the fields with no stated value zero (R500). -/
def resetStatus : Word := 0x00400000#32

/-- Config after Reset (R500): `(ICS << 19) | (DCS << 16) | 0x30`. -/
def resetConfig (p : Product) : Word :=
  (p.ics.setWidth 32 <<< (19 : Nat)) ||| (p.dcs.setWidth 32 <<< (16 : Nat)) ||| 0x30#32

/-- The LRU bits of the data cache, with no stated reset value. DESIGN CHOICE (log entry 1), as `unstatedWord`. -/
def unstatedLru : BitVec 1024 := 0#1024

/-- A register file of 32 words with no stated reset value. -/
def unstatedFile : Vector Word 32 := Vector.replicate 32 unstatedWord

/-- A coprocessor's registers at reset: no stated value. -/
def unstatedCoprocessor : Coprocessor := { gpr := unstatedFile, ctl := unstatedFile }

end Sys2Proof.Machine
end

