-- ==== Sys2Proof/Machine/State.lean ====
section
/-! DEFINITION. The state of the machine as plain data: everything the spec gives it, the fault and refusal reasons,
and the state after reset. INVENTORY.md lists the fields with the rules that name them. -/

namespace Sys2Proof.Machine

/-- Why a step faults. -/
inductive Fault where
  /-- Raised by a write of an external master to an address of 2^32 or more: memory is indexed by a 32-bit physical
  address (R100), so that address does not exist. No instruction raises it. Safe: the model stops. -/
  | outsideAddressSpace
  deriving DecidableEq, Repr

/-- Why the model has no next state. Each is a case of 93_implementation_defined.md whose treatment there is
"refuse"; all are safe, the model stops where the hardware goes on. -/
inductive Refusal where
  /-- Raised by the dispatcher for an instruction without a meaning. Safe. -/
  | notModelled (mnemonic : String)
  /-- A `γ` word (U1, D12), raised when it would execute. Safe. -/
  | invalidEncoding
  /-- A defined instruction with a non-zero "0" field (U24, D11). Safe. -/
  | nonZeroField
  /-- CFC0 and CTC0 with CP0 usable (U9, D23). Safe. -/
  | controlMoveOfCp0
  /-- A jump, branch or DERET in a delay slot, executed or nullified (U6, D17). Safe. -/
  | branchInDelaySlot
  /-- JALR with rs = rd (U7). Safe. -/
  | jalrSameRegister
  /-- DIV or DIVU next or next but one after MFHI, MFLO, MADD or MADDU (U5, D14). Safe. -/
  | divideAfterHiLoRead
  /-- A load, store or CACHE right after MTC0 to Status, Config or Cache (U12, D20). Safe. -/
  | accessAfterCp0Write
  /-- RFE right after MTC0 or MFC0 of Status (U13). Safe. -/
  | rfeAfterStatusMove
  /-- RFE with Status.IEc = 1 (U14). Safe. -/
  | rfeInterruptsEnabled
  /-- An MTC0 that leaves Config.Halt and Config.Doze both 1 (U11). Safe. -/
  | haltAndDoze
  /-- SDBBP with Debug.DM = 1 (U8). Safe. -/
  | sdbbpInDebugMode
  /-- An ordinary synchronous exception with Debug.DM = 1 (U16, N24). Safe. -/
  | exceptionInDebugMode
  /-- DERET with Debug.DM = 0 (U15, D19). Safe. -/
  | deretOutsideDebug
  /-- A word other than the NOP 0x00000000 in the delay slot of DERET (U15, D19). Safe. -/
  | deretSlotNotNop
  /-- CACHE with one of the 28 undefined operations (U10). Safe. -/
  | cacheUndefinedOperation
  /-- CACHE with an address in an uncached segment (U10). Safe. -/
  | cacheUncachedAddress
  /-- CACHE in user mode with a kernel address (D25). Safe. -/
  | cacheKernelAddress
  /-- CACHE IndexInvalidate with the instruction cache enabled (U10, R394). Safe. -/
  | indexInvalidateEnabled
  /-- A fetch of a word whose stored value is not known to be visible to the fetch (D9). Safe. -/
  | staleFetch
  deriving DecidableEq, Repr

/-- The Debug register, field by field: its bit positions are a parameter (R81). -/
structure DebugRegister where
  dbd : Bool
  dm : Bool
  nis : Bool
  oes : Bool
  tlf : Bool
  bsf : Bool
  sst : Bool
  dbp : Bool
  dss : Bool
  deriving DecidableEq, Repr

/-- The CP0 registers (R38). PRId is a constant (`readPrid`); Cause.IP is the lines themselves (R51), so its bits are
zero here. -/
structure Cp0 where
  status : Word
  cause : Word
  epc : Word
  badVAddr : Word
  config : Word
  cache : Word
  debugReg : DebugRegister
  depc : Word
  deriving DecidableEq, Repr

/-- Where the instruction at `pc` stands (R90, R300). -/
inductive Slot where
  /-- Not in a delay slot. -/
  | none
  /-- In the delay slot of the jump or branch at `addr`, which was taken or not. -/
  | branch (addr : Word) (taken : Bool)
  /-- In the delay slot of the DERET at `addr` (R389). -/
  | deret (addr : Word)
  deriving DecidableEq, Repr

/-- What the instructions just executed leave for the next one or two (R96, R384, R387, R524 to R529). -/
structure Windows where
  /-- The previous instruction was an MTC0 to Status, Config or Cache (R384). -/
  afterCp0Write : Bool
  /-- The previous instruction was an MTC0 or MFC0 of Status (R387). -/
  afterStatusMove : Bool
  /-- The CU bits changed by the MTC0 one instruction back, and two back (R525). -/
  cu1 : BitVec 4
  cu2 : BitVec 4
  /-- KUc was changed by the MTC0 one instruction back, or two back (R529). -/
  ku1 : Bool
  ku2 : Bool
  /-- BEV was changed by the MTC0 one instruction back (R527). -/
  bev1 : Bool
  /-- What an MTC0 to Status or Cause one instruction back replaced: the old IntMask (zero if the old IEc was 0) and
  the old Cause.Sw (R528). -/
  irq1 : Option (BitVec 8 × BitVec 2)
  deriving DecidableEq, Repr

/-- A load whose bus read failed and whose Bus Error is still to be reported (R92, R462). -/
structure LateError where
  /-- The load's destination. -/
  rt : RegIndex
  /-- The read was a single access: uncached, or a one-word refill (R462). -/
  single : Bool
  /-- No instruction has completed since the load. -/
  fresh : Bool
  deriving DecidableEq, Repr

/-- One line of the data cache (R94, R136). `tag` is the physical address above the index; `data` is the word. -/
structure Line where
  valid : Bool
  lock : Bool
  tag : Nat
  data : Word
  deriving DecidableEq, Repr

/-- The two lines of a set of the data cache (R136). -/
structure Ways where
  way0 : Line
  way1 : Line
  deriving DecidableEq, Repr

/-- A line of the instruction cache: the four words of a valid line, `none` when the valid bit is 0 (R94, R137). Its
tag and index are its key, the physical address divided by 16. -/
abbrev InstructionLine := Option (Vector Word 4)

/-- A word of memory that was stored to and may be fetched in its old value (D9). -/
structure StaleWord where
  /-- The physical word address. -/
  word : Nat
  /-- The 16-byte block, as virtual address / 16, of the storing instruction's successor. -/
  block : Nat
  /-- A SYNC, or an uncached load, was executed after the store. -/
  synced : Bool
  /-- A taken jump or branch was executed after that SYNC. -/
  jumped : Bool
  /-- Execution has left `block` since the store. -/
  left : Bool
  /-- The instruction cache may hold the word as it was before the store: its line was valid at the store, or was
  filled before that SYNC, and CACHE IndexInvalidate was not executed for its index after that SYNC. -/
  held : Bool
  deriving DecidableEq, Repr

/-- Hidden state (R90 to R97). -/
structure Hidden where
  /-- A DIV or DIVU may still be running (R284). -/
  divBusy : Bool
  /-- Instructions since the last MFHI, MFLO, MADD or MADDU: 0, 1, or 2 for "2 or more" (R284). -/
  hiloReadAge : Nat
  windows : Windows
  /-- Single-step suppression after DERET (R97). -/
  ssSuppressed : Bool
  /-- The value of Config.ICE that fetches use (R535). -/
  iceSample : Bool
  /-- The NMI-pending latch (R95). -/
  nmiPending : Bool
  /-- `coc_prev[z]`, bit z (R362). -/
  cocPrev : BitVec 4
  /-- Failed loads not yet reported, oldest first (R92). -/
  late : List LateError
  deriving DecidableEq, Repr

/-- The memory system. -/
structure MemorySystem where
  /-- Memory by physical address, in canonical form (`Memory.wf`). -/
  bytes : List Host.Cell
  /-- The write buffer, oldest first: the bytes of each buffered bus write (R93, D10). -/
  buffer : List (List Host.Cell)
  /-- The lines of the data cache: the sets that differ from the empty set, by rising index (R94). -/
  dcache : List (Nat × Ways)
  /-- The LRU replace bits R of the data cache, bit i for set i (R136); the largest cache has 1024 sets. -/
  lru : BitVec 1024
  /-- The instruction cache: the lines that were filled and not invalidated since, by rising key (R94, R137). Which of
  them have been replaced meanwhile is open, because associativity and replacement are lost (N14). -/
  icache : List (Nat × InstructionLine)
  /-- The stale words (D9). -/
  stale : List StaleWord
  /-- The bus accesses that devices have seen, oldest first (D7, R153). -/
  devices : List DeviceAccess
  deriving DecidableEq, Repr

/-- What the world outside the core does at an instruction boundary (R13; 92_eei_decisions.md section 4). -/
inductive PlatformMove where
  /-- Nothing: the core takes one step. -/
  | core
  /-- The six interrupt lines take these levels (R51). -/
  | setInterruptLines (lines : BitVec 6)
  /-- A falling edge of the NMI input (R95). -/
  | nmiEdge
  /-- The condition inputs take these levels, bit z for coprocessor z (R362, P-COC0). -/
  | setConditions (coc : BitVec 4)
  /-- From now on the bus answers an error to a read of one of these word addresses (R460). -/
  | setBusErrors (words : List Nat)
  /-- The oldest buffered write reaches the bus (R131, D10). -/
  | busWrite
  /-- An external master writes one byte of memory while the core has released the bus (R142, R152). DESIGN CHOICE (log
  entry 61): R154 and section 4 give the master's writes no width; a halfword or a word of it is several such moves, with
  or without a step of the core between them. -/
  | externalWrite (address : Nat) (value : Byte)
  /-- Reset, with the byte order sampled (R500, R10). -/
  | reset (bigEndian : Bool)
  deriving DecidableEq, Repr

/-- The platform around the core (R10 to R13). -/
structure Platform where
  product : Product
  intLines : BitVec 6
  coc : BitVec 4
  cop1 : Coprocessor
  cop2 : Coprocessor
  cop3 : Coprocessor
  /-- The word addresses whose reads answer a bus error, besides those of no region (R460). -/
  busErrors : List Nat
  /-- The moves to come; when the list is empty the core runs on its own. -/
  schedule : List PlatformMove
  deriving DecidableEq, Repr

/-- The state of the machine. `draws` is the model's own: it counts the free values and races drawn. -/
structure State where
  gpr : Vector Word 32
  pc : Word
  nextPc : Word
  slot : Slot
  hi : Word
  lo : Word
  cp0 : Cp0
  hidden : Hidden
  memory : MemorySystem
  platform : Platform
  draws : Nat
  deriving DecidableEq, Repr

/-- The machine right after reset (R500) with the default product. What the spec leaves undefined is `unstatedWord`
or the like (log entry 1). -/
def State.reset : State :=
  { gpr := unstatedFile
    pc := resetVector
    nextPc := resetVector + 4#32
    slot := .none
    hi := unstatedWord
    lo := unstatedWord
    cp0 :=
      { status := resetStatus
        cause := unstatedWord
        epc := unstatedWord
        badVAddr := unstatedWord
        config := resetConfig defaultProduct
        cache := unstatedWord
        debugReg :=
          { dbd := false, dm := false, nis := false, oes := false, tlf := false, bsf := false, sst := false,
            dbp := false, dss := false }
        depc := unstatedWord }
    hidden :=
      { divBusy := false
        hiloReadAge := 2
        windows := { afterCp0Write := false, afterStatusMove := false, cu1 := 0, cu2 := 0, ku1 := false,
                     ku2 := false, bev1 := false, irq1 := none }
        ssSuppressed := false
        iceSample := true
        nmiPending := false
        cocPrev := 0
        late := [] }
    memory :=
      { bytes := [], buffer := [], dcache := [], lru := unstatedLru, icache := [], stale := [], devices := [] }
    platform :=
      { product := defaultProduct
        intLines := 0
        coc := 0
        cop1 := unstatedCoprocessor
        cop2 := unstatedCoprocessor
        cop3 := unstatedCoprocessor
        busErrors := []
        schedule := [] }
    draws := 0 }

end Sys2Proof.Machine
end

