-- ==== Sys2Proof/Machine/Operands.lean ====
section
/-! DEFINITION. The operand forms: general registers, immediates, effective addresses, branch and jump targets, and
the byte lanes of a memory word (R30, R31, R103, R109, R167, R302). -/

namespace Sys2Proof.Machine

/-- `GPR[i]`: "Register r0 always contains the value 0" (R31). -/
def State.reg (s : State) (i : RegIndex) : Word :=
  if i = 0#5 then 0#32 else s.gpr[i.toNat]'i.isLt

/-- `GPR[i] <- v`: a write to r0 has no effect (R31). -/
def State.writeReg (s : State) (i : RegIndex) (v : Word) : State :=
  if i = 0#5 then s else { s with gpr := s.gpr.set i.toNat v i.isLt }

/-- The register that JAL and the And Link branches write (R32). -/
def linkRegister : RegIndex := 31#5

/-- `HI` and `LO` written together, from a 64-bit value (R271). -/
def State.writeHiLo (s : State) (t : BitVec 64) : State :=
  { s with hi := t.extractLsb' 32 32, lo := t.extractLsb' 0 32 }

/-- `HI || LO` (R273). -/
def State.hiLo (s : State) : BitVec 64 := s.hi ++ s.lo

/-- The effective address, modulo 2^32 (R109). -/
def State.effectiveAddress (s : State) (base : RegIndex) (offset : BitVec 16) : Word :=
  s.reg base + sext16 offset

/-- The link value: the address after the delay slot (R301). -/
def State.linkValue (s : State) : Word := s.pc + 8#32

/-- The branch target `(pc + 4) + displacement` (R302). -/
def State.branchTarget (s : State) (offset : BitVec 16) : Word :=
  s.pc + 4#32 + branchDisplacement offset

/-- The jump target `(pc + 4)[31:28] || target || 00` (R306). -/
def State.jumpTarget (s : State) (target : BitVec 26) : Word :=
  (s.pc + 4#32).extractLsb' 28 4 ++ target ++ 0#2

/-- The lane selector `byte` of a byte access and of LWL, LWR, SWL, SWR (R103). -/
def byteSelector (bigEndianCpu : Bool) (vAddr : Word) : Nat :=
  let a := vAddr.extractLsb' 0 2
  (if bigEndianCpu then a ^^^ 0b11#2 else a).toNat

/-- The lane selector of a halfword access (R103). -/
def halfSelector (bigEndianCpu : Bool) (vAddr : Word) : Nat :=
  let a := vAddr.extractLsb' 0 2
  (if bigEndianCpu then a ^^^ 0b10#2 else a).toNat

/-- The loaded values, from the memory word, the lane selector and the old register (R204 to R210). -/
def loadedByteSigned (lane : Nat) (mem _old : Word) : Word := (mem.extractLsb' (8 * lane) 8).signExtend 32
def loadedByteUnsigned (lane : Nat) (mem _old : Word) : Word := (mem.extractLsb' (8 * lane) 8).setWidth 32
def loadedHalfSigned (lane : Nat) (mem _old : Word) : Word := (mem.extractLsb' (8 * lane) 16).signExtend 32
def loadedHalfUnsigned (lane : Nat) (mem _old : Word) : Word := (mem.extractLsb' (8 * lane) 16).setWidth 32
def loadedWord (_lane : Nat) (mem _old : Word) : Word := mem
/-- LWL: `mem[7+8*byte : 0] || GPR[rt][23-8*byte : 0]` (R209, R214). -/
def loadedLeft (lane : Nat) (mem old : Word) : Word :=
  (mem <<< (24 - 8 * lane)) ||| (old &&& ((1#32 <<< (24 - 8 * lane)) - 1#32))
/-- LWR: `GPR[rt][31 : 32-8*byte] || mem[31 : 8*byte]` (R210, R214). -/
def loadedRight (lane : Nat) (mem old : Word) : Word :=
  (mem >>> (8 * lane)) ||| (old &&& ~~~((0xFFFFFFFF#32) >>> (8 * lane)))

/-- One byte for a lane of a memory word; lane 0 is bits 7:0 (R103). -/
abbrev LaneByte := Nat × Byte

/-- Byte `k` of a register value, bits `8k+7 : 8k`. -/
def registerByte (v : Word) (k : Nat) : Byte := v.extractLsb' (8 * k) 8

/-- The lanes an access reaches, from the lane selector (R105). -/
def byteLanes (lane : Nat) : List Nat := [lane]
def halfLanes (lane : Nat) : List Nat := [lane, lane + 1]
def wordLanes (_lane : Nat) : List Nat := [0, 1, 2, 3]
def leftLanes (lane : Nat) : List Nat := List.range (lane + 1)
def rightLanes (lane : Nat) : List Nat := (List.range (4 - lane)).map (lane + ·)

/-- The lanes a store writes, from the lane selector and the register (R211 to R217, table R215). -/
def storedByte (lane : Nat) (v : Word) : List LaneByte := [(lane, registerByte v 0)]
def storedHalf (lane : Nat) (v : Word) : List LaneByte := [(lane, registerByte v 0), (lane + 1, registerByte v 1)]
def storedWord (_lane : Nat) (v : Word) : List LaneByte :=
  [(0, registerByte v 0), (1, registerByte v 1), (2, registerByte v 2), (3, registerByte v 3)]
/-- SWL: lanes 0 to `byte` take the left part of the register (R216). -/
def storedLeft (lane : Nat) (v : Word) : List LaneByte :=
  (leftLanes lane).map fun k => (k, registerByte v (3 - lane + k))
/-- SWR: lanes `byte` to 3 take the right part of the register (R217). -/
def storedRight (lane : Nat) (v : Word) : List LaneByte :=
  (rightLanes lane).map fun k => (k, registerByte v (k - lane))

/-- The alignment an access asks for (R106). -/
def unaligned1 (_vAddr : Word) : Bool := false
def unaligned2 (vAddr : Word) : Bool := vAddr.getLsbD 0
def unaligned4 (vAddr : Word) : Bool := vAddr.getLsbD 0 || vAddr.getLsbD 1

/-- A shift count in a register: its low five bits (R253). -/
def shiftCount (v : Word) : Nat := (v.extractLsb' 0 5).toNat

end Sys2Proof.Machine
end

