-- ==== Sys2Proof/Machine/Flags.lean ====
section
/-! DEFINITION. The fields of the CP0 registers, the mode, the usability of a coprocessor, and the conditions that
instructions compute. The core has no flag register (R37). -/

namespace Sys2Proof.Machine

/-! Status (R40). -/

def Cp0.iec (c : Cp0) : Bool := c.status.getLsbD 0
def Cp0.kuc (c : Cp0) : Bool := c.status.getLsbD 1
def Cp0.bev (c : Cp0) : Bool := c.status.getLsbD 22
def Cp0.re (c : Cp0) : Bool := c.status.getLsbD 25
/-- IntMask, bits 15:8. -/
def Cp0.intMask (c : Cp0) : BitVec 8 := c.status.extractLsb' 8 8
/-- CU3 to CU0, bits 31:28; bit z is CU[z]. PRESUMED order (log entry 6). -/
def Cp0.cu (c : Cp0) : BitVec 4 := c.status.extractLsb' 28 4

/-- The bits of Status that MTC0 writes (R41). -/
def statusMask : Word := 0xF240FF3F#32

/-! Cause (R50). -/

/-- Sw1 and Sw0, bits 9:8. -/
def Cp0.sw (c : Cp0) : BitVec 2 := c.cause.extractLsb' 8 2
def Cp0.excCode (c : Cp0) : BitVec 5 := c.cause.extractLsb' 2 5
def Cp0.ce (c : Cp0) : BitVec 2 := c.cause.extractLsb' 28 2
def Cp0.bd (c : Cp0) : Bool := c.cause.getLsbD 31

/-- The bits of Cause that MTC0 writes (R50). -/
def causeMask : Word := 0x00000300#32

/-! Config (R66) and Cache (R70). -/

def Cp0.doze (c : Cp0) : Bool := c.config.getLsbD 9
def Cp0.halt (c : Cp0) : Bool := c.config.getLsbD 8
def Cp0.configLock (c : Cp0) : Bool := c.config.getLsbD 7
def Cp0.dcbr (c : Cp0) : Bool := c.config.getLsbD 6
def Cp0.ice (c : Cp0) : Bool := c.config.getLsbD 5
def Cp0.dce (c : Cp0) : Bool := c.config.getLsbD 4
def Cp0.irSize (c : Cp0) : BitVec 2 := c.config.extractLsb' 2 2
def Cp0.drSize (c : Cp0) : BitVec 2 := c.config.extractLsb' 0 2
def Cp0.dalc (c : Cp0) : Bool := c.cache.getLsbD 8

/-- The bits of Config and of Cache that MTC0 writes (R66, R70). -/
def configMask : Word := 0x00000FFF#32
def cacheMask : Word := 0x00003F00#32

/-! The mode (R471, R529) and the byte order of loads and stores (R101). -/

/-- A debug handler is running (R86). -/
def State.inDebug (s : State) : Bool := s.cp0.debugReg.dm

/-- `user_mode`: KUc = 1 and DM = 0 (R471). In the write window of KUc either value may be used (R529, R524). -/
def State.userMode (s : State) : Bool :=
  !s.inDebug &&
    (if s.hidden.windows.ku1 || s.hidden.windows.ku2 then Config.race .mode s.draws else s.cp0.kuc)

/-- `BigEndianCPU` (R101). -/
def State.bigEndianCpu (s : State) : Bool :=
  xor s.platform.product.bigEndianMem (s.cp0.re && s.userMode)

/-- CU[z] as an instruction sees it: in the write window either value (R525, R524). -/
def State.cuSeen (s : State) (z : BitVec 2) : Bool :=
  if (s.hidden.windows.cu1 ||| s.hidden.windows.cu2).getLsbD z.toNat
  then Config.race (.coprocessorUsable z.toNat) s.draws
  else s.cp0.cu.getLsbD z.toNat

/-- `usable(z)` (R350). -/
def State.usable (s : State) (z : BitVec 2) : Bool :=
  s.cuSeen z || (z == 0#2 && !s.userMode)

/-! Interrupts (R450, R528). -/

/-- The eight requests: the six lines above the two software bits. -/
def State.interruptRequest (s : State) : BitVec 8 := s.platform.intLines ++ s.cp0.sw

/-- The mask that is in force: IntMask when IEc is 1. -/
def Cp0.enabledMask (c : Cp0) : BitVec 8 := if c.iec then c.intMask else 0#8

/-- `int_pending` (R450). Where the previous instruction was an MTC0 to Status or Cause, an interrupt is sure to be
taken here only if it is requested and enabled both before the write and after it; one that the write enabled may be
taken here or one boundary later (R528). -/
def State.interruptTaken (s : State) : Bool :=
  !s.inDebug && s.interruptRequest &&& s.cp0.enabledMask != 0#8 &&
    (match s.hidden.windows.irq1 with
     | none => true
     | some (oldMask, oldSw) =>
       (s.platform.intLines ++ oldSw) &&& oldMask &&& (s.interruptRequest &&& s.cp0.enabledMask) != 0#8 ||
         Config.race .interrupt s.draws)

/-! Arithmetic conditions (R231, R235, R236, R245, R246). -/

/-- Signed overflow of an addition: equal signs in, the other sign out. -/
def overflowAdd (a b : Word) : Bool := a.msb == b.msb && (a + b).msb != a.msb

/-- Signed overflow of a subtraction. -/
def overflowSub (a b : Word) : Bool := a.msb != b.msb && (a - b).msb != a.msb

def lessSigned (a b : Word) : Bool := BitVec.slt a b
def lessUnsigned (a b : Word) : Bool := BitVec.ult a b

/-! Branch conditions (R311 to R318, R327). -/

def isNegative (a : Word) : Bool := a.msb
def isNotNegative (a : Word) : Bool := !a.msb
def isNotPositive (a : Word) : Bool := a.msb || a == 0#32
def isPositive (a : Word) : Bool := !a.msb && a != 0#32

end Sys2Proof.Machine
end

