-- ==== Sys2Proof/Machine/Sparse.lean ====
section
/-! DEFINITION. Data by key, as a list of pairs in one canonical form: keys strictly rising, and no pair that holds
the default, which is what an unlisted key reads as. Memory and the data cache are kept so. -/

namespace Sys2Proof.Machine

variable {α : Type}

/-- The value at a key. -/
def Sparse.read (default : α) : List (Nat × α) → Nat → α
  | [], _ => default
  | (k, v) :: rest, a => if k = a then v else Sparse.read default rest a

/-- The list with the value at one key replaced; writing the default removes the pair. -/
def Sparse.write [DecidableEq α] (default : α) : List (Nat × α) → Nat → α → List (Nat × α)
  | [], a, v => if v = default then [] else [(a, v)]
  | (k, w) :: rest, a, v =>
    if a < k then (if v = default then (k, w) :: rest else (a, v) :: (k, w) :: rest)
    else if a = k then (if v = default then rest else (a, v) :: rest)
    else (k, w) :: Sparse.write default rest a v

/-- The canonical form, from the key `low` on. -/
def Sparse.wfFrom [DecidableEq α] (default : α) (low : Nat) : List (Nat × α) → Bool
  | [] => true
  | (k, v) :: rest => decide (low ≤ k) && decide (v ≠ default) && Sparse.wfFrom default (k + 1) rest

/-- The canonical form. -/
def Sparse.wf [DecidableEq α] (default : α) (l : List (Nat × α)) : Bool := Sparse.wfFrom default 0 l

end Sys2Proof.Machine
end

