-- ==== Sys2Proof/Machine/Memory.lean ====
section
/-! DEFINITION. Address translation, memory, devices, the write buffer, the caches, snoops and the words that a fetch
may see in an old value (20_memory.md; R392 to R396; D7 to D10). -/

namespace Sys2Proof.Machine

/-! Translation (R110, R111). -/

/-- Where a virtual address lies. -/
structure Translation where
  pAddr : Word
  cacheable : Bool
  deriving DecidableEq, Repr

/-- The direct segment mapping (R111), without the mode check. -/
def segmentMap (v : Word) : Translation :=
  if v.getLsbD 31 = false then
    { pAddr := v + 0x40000000#32, cacheable := v.extractLsb' 24 8 != 0x7F#8 }
  else if v.extractLsb' 29 3 = 0b100#3 then { pAddr := v - 0x80000000#32, cacheable := true }
  else if v.extractLsb' 29 3 = 0b101#3 then { pAddr := v - 0xA0000000#32, cacheable := false }
  else { pAddr := v, cacheable := v.extractLsb' 24 8 != 0xFF#8 }

/-- The mode check of R111 and R112: a kernel address in user mode. -/
def State.kernelAddressInUserMode (s : State) (v : Word) : Bool := s.userMode && v.getLsbD 31

/-- The aligned word that holds a physical address, as a key of memory. -/
def wordAddress (pAddr : Word) : Nat := pAddr.toNat / 4 * 4

/-! Memory by physical address (R100). -/

/-- What a byte of memory that nothing has written reads as. DESIGN CHOICE (log entry 2), unsafe. -/
def unwrittenByte : Byte := 0#8

def Memory.read (m : List Host.Cell) (a : Nat) : Byte := Sparse.read unwrittenByte m a
def Memory.write (m : List Host.Cell) (a : Nat) (b : Byte) : List Host.Cell := Sparse.write unwrittenByte m a b

/-- The canonical form: addresses strictly rising, no entry equal to what an unlisted address reads as. -/
def Memory.wf (m : List Host.Cell) : Bool := Sparse.wf unwrittenByte m

/-- What answers at a physical address; none where nothing responds (R118, D7). -/
def Platform.region (p : Platform) (a : Nat) : Option RegionKind :=
  (p.product.physMap.find? fun r => decide (r.base ≤ a) && decide (a < r.base + r.size)).map Region.kind

/-- `BusErrorOnRead` for one word of a read transaction (R460, D7). -/
def Platform.readFails (p : Platform) (word : Nat) : Bool :=
  (p.region word).isNone || p.busErrors.contains word

/-- The handler of the device at a physical address (D7); its aligned word decides. -/
def Platform.handler (p : Platform) (a : Nat) : Option Nat :=
  match p.region (a / 4 * 4) with
  | some (.device h) => some h
  | _ => none

def Platform.isDevice (p : Platform) (a : Nat) : Bool := (p.handler a).isSome
def Platform.isRam (p : Platform) (a : Nat) : Bool := p.region a == some .ram

/-- One byte of a bus write on memory: RAM takes it, ROM and unmapped addresses drop it (D7). -/
def Platform.writeByte (p : Platform) (m : List Host.Cell) (c : Host.Cell) : List Host.Cell :=
  if p.isRam c.1 then Memory.write m c.1 c.2 else m

/-- One bus write. -/
def Platform.busWrite (p : Platform) (m : List Host.Cell) (cells : List Host.Cell) : List Host.Cell :=
  cells.foldl p.writeByte m

/-- Memory as it stands once the buffered writes have reached the bus, in program order (D10). -/
def State.drainedBytes (s : State) : List Host.Cell :=
  s.memory.buffer.foldl s.platform.busWrite s.memory.bytes

/-- What devices have seen after one more bus write: the bytes of it that lie in device regions (R153). -/
def Platform.busDevices (p : Platform) (history : List DeviceAccess) (cells : List Host.Cell) : List DeviceAccess :=
  let seen := cells.filter fun c => p.isDevice c.1
  if seen.isEmpty then history else history ++ [.store seen]

/-- What devices have seen once the buffered writes have reached the bus (D10). -/
def State.drainedDevices (s : State) : List DeviceAccess :=
  s.memory.buffer.foldl s.platform.busDevices s.memory.devices

/-- Every buffered write reaches the bus (R150, R151). -/
def State.drain (s : State) : State :=
  { s with memory := { s.memory with bytes := s.drainedBytes, buffer := [], devices := s.drainedDevices } }

/-- The oldest buffered write reaches the bus. -/
def State.drainOldest (s : State) : State :=
  match s.memory.buffer with
  | [] => s
  | cells :: rest =>
    { s with memory := { s.memory with
        bytes := s.platform.busWrite s.memory.bytes cells
        buffer := rest
        devices := s.platform.busDevices s.memory.devices cells } }

/-- A byte of main memory as the core's own bus reads see it: earlier stores included (R150). -/
def State.busByte (s : State) (a : Nat) : Byte := Memory.read s.drainedBytes a

/-- `Word(A)` of main memory (R102). -/
def State.busWord (s : State) (a : Nat) : Word :=
  wordOfBytes s.platform.product.bigEndianMem (s.busByte a) (s.busByte (a + 1)) (s.busByte (a + 2)) (s.busByte (a + 3))

/-! Devices (R153, D7). -/

/-- A word as a bus read gets it: from the device whose region holds it, else from main memory. -/
def State.readWord (s : State) (a : Nat) : Word :=
  match s.platform.handler a with
  | some h => Config.deviceRead h s.drainedDevices s.draws a
  | none => s.busWord a

/-- The devices see an access. -/
def State.recordAccess (s : State) (access : DeviceAccess) : State :=
  { s with memory := { s.memory with devices := s.memory.devices ++ [access] } }

/-- The read of a block of words is seen by the devices that hold some of them. -/
def State.seenByDevices (s : State) (words : List Nat) (access : List Nat → DeviceAccess) : State :=
  let seen := words.filter s.platform.isDevice
  if seen.isEmpty then s else s.recordAccess (access seen)

/-! The data cache (R136). -/

/-- One set of the two-way data cache: its lines and its LRU replace bit R. -/
structure CacheSet where
  way0 : Line
  way1 : Line
  lru : Bool
  deriving DecidableEq, Repr

def Line.empty : Line := { valid := false, lock := false, tag := 0, data := 0#32 }

/-- The lines of a set as Reset leaves them: both invalid and unlocked (R500). -/
def Ways.empty : Ways := { way0 := Line.empty, way1 := Line.empty }

/-- Log2 of the number of sets: 128 sets for 1 Kbyte, doubling with the size (R136, R393). -/
def State.setBits (s : State) : Nat := 7 + s.platform.product.dcs.toNat

/-- The index and the tag of a physical address (R136). -/
def State.setIndex (s : State) (a : Nat) : Nat := a / 4 % 2 ^ s.setBits
def State.tagOf (s : State) (a : Nat) : Nat := a / (4 * 2 ^ s.setBits)

def State.readSet (s : State) (i : Nat) : CacheSet :=
  let ways := Sparse.read Ways.empty s.memory.dcache i
  { way0 := ways.way0, way1 := ways.way1, lru := s.memory.lru.getLsbD i }
def State.writeSet (s : State) (i : Nat) (c : CacheSet) : State :=
  { s with memory := { s.memory with
      dcache := Sparse.write Ways.empty s.memory.dcache i { way0 := c.way0, way1 := c.way1 }
      lru := withBit s.memory.lru i c.lru } }

/-- A way: `false` for way 0. -/
def CacheSet.way (c : CacheSet) (w : Bool) : Line := if w then c.way1 else c.way0
def CacheSet.setWay (c : CacheSet) (w : Bool) (l : Line) : CacheSet :=
  if w then { c with way1 := l } else { c with way0 := l }

/-- The way that holds a tag (R393). -/
def CacheSet.hit (c : CacheSet) (tag : Nat) : Option Bool :=
  if c.way0.valid && c.way0.tag == tag then some false
  else if c.way1.valid && c.way1.tag == tag then some true
  else none

/-- The way that holds a physical word. -/
def State.hitWay (s : State) (a : Nat) : Option Bool := (s.readSet (s.setIndex a)).hit (s.tagOf a)

/-- The LRU bit that designates way `w` (R395). -/
def State.lruFor (s : State) (w : Bool) : Bool := xor w s.platform.product.lruZeroWay

/-- The set after an access to way `w`: the LRU bit designates the other way, unless that is locked (R136, R141), and
with auto-lock the line is locked, unless the other line is: one line of a set at most is locked (R140, D8). -/
def State.touched (s : State) (c : CacheSet) (w : Bool) (autoLock : Bool) : CacheSet :=
  let otherLocked := (c.way (!w)).lock
  let line := c.way w
  { c.setWay w { line with lock := line.lock || (autoLock && !otherLocked) } with
    lru := s.lruFor (xor w (!otherLocked)) }

/-- Auto-lock is in effect (R71, R86). -/
def State.autoLock (s : State) : Bool := s.cp0.dalc && !s.inDebug

/-- The way a refill replaces (R141): never a locked line beside an unlocked one, else an invalid line, else the one
the LRU bit designates (R136, log entry 21). -/
def State.victimWay (s : State) (c : CacheSet) : Bool :=
  if c.way0.lock != c.way1.lock then c.way0.lock
  else if c.way0.valid != c.way1.valid then c.way0.valid
  else xor c.lru s.platform.product.lruZeroWay

/-- A set after a refill with the word at `a` (R138): a line that holds the word already is refreshed, but a locked line
keeps its data (R141, log entry 20). -/
def State.refilledSet (s : State) (a : Nat) (c : CacheSet) : CacheSet :=
  match c.hit (s.tagOf a) with
  | some w =>
    let line := c.way w
    if line.lock then c else s.touched (c.setWay w { line with data := s.readWord a }) w s.autoLock
  | none =>
    let w := s.victimWay c
    s.touched (c.setWay w { valid := true, lock := false, tag := s.tagOf a, data := s.readWord a }) w s.autoLock

/-- One word of a refill. -/
def State.fillWord (s : State) (a : Nat) : State :=
  s.writeSet (s.setIndex a) (s.refilledSet a (s.readSet (s.setIndex a)))

/-- The words of the aligned block of `size` bytes around `a` (R138). -/
def blockWords (size a : Nat) : List Nat := (List.range (size / 4)).map fun k => a / size * size + 4 * k

/-- The bytes of a refill size code: 00 is 16, 01 is 32, 10 is 64, 11 is 128 (R66). -/
def refillBytes (code : BitVec 2) : Nat := 16 * 2 ^ code.toNat

/-- The data cache refill size: one word unless DCBR is set (R66). -/
def Cp0.dataRefillBytes (c : Cp0) : Nat := if c.dcbr then refillBytes c.drSize else 4

/-! Data reads and writes (R114, R130 to R132, R141, D10). -/

/-- The answer to a data read. -/
inductive ReadResult where
  /-- The word; whether the access went to the bus uncached; the state after it. -/
  | word (w : Word) (uncached : Bool) (s : State)
  /-- A bus error; whether the transaction was a single access; whether it was uncached; the state after it. -/
  | busError (single : Bool) (uncached : Bool) (s : State)

/-- The read of the word at physical address `a`: a cache hit, a refill, or an uncached access, which is one bus
access of its own `bytes` (R153). The last two drain the write buffer first (D10). -/
def State.dataRead (s : State) (a : Nat) (cacheable : Bool) (bytes : List Nat) : ReadResult :=
  if cacheable && s.cp0.dce then
    let c := s.readSet (s.setIndex a)
    match c.hit (s.tagOf a) with
    | some w => .word (c.way w).data false (s.writeSet (s.setIndex a) (s.touched c w s.autoLock))
    | none =>
      let size := s.cp0.dataRefillBytes
      let words := blockWords size a
      if words.any s.platform.readFails then .busError (size == 4) false s.drain
      else .word (s.readWord a) false ((words.foldl State.fillWord s.drain).seenByDevices words .refill)
  else if s.platform.readFails a then .busError true true s.drain
  else .word (s.readWord a) true (if s.platform.isDevice a then s.drain.recordAccess (.load bytes) else s.drain)

/-- A word with some lanes replaced (R103). -/
def writeLanes (w : Word) (lanes : List LaneByte) : Word :=
  lanes.foldl (fun w l => setBits (8 * l.1) l.2 w) w

/-- The memory byte of a lane: lane k is `A + k` in little endian and `A + 3 - k` in big endian (R102). -/
def laneAddress (big : Bool) (a lane : Nat) : Nat := a + (if big then 3 - lane else lane)

/-- The bytes of a bus write. -/
def laneCells (big : Bool) (a : Nat) (lanes : List LaneByte) : List Host.Cell :=
  lanes.map fun l => (laneAddress big a l.1, l.2)

/-- The instruction cache line with a key (R94). -/
def State.instructionLine (s : State) (line : Nat) : InstructionLine := Sparse.read none s.memory.icache line

/-- A word entered into the stale set (D9). A fetch can find the old word in the instruction cache only if its line is
valid there. What an earlier store to the same word still waits for, a SYNC after it or IndexInvalidate, is kept. -/
def State.addStale (s : State) (word : Nat) (block : Nat) (synced : Bool) : State :=
  let old := s.memory.stale.filter fun e => e.word == word
  { s with memory := { s.memory with
      stale := { word, block, synced := synced && old.all (fun e => e.synced), jumped := false, left := false,
                 held := (s.instructionLine (word / 16)).isSome || old.any (fun e => e.held) } ::
        s.memory.stale.filter fun e => e.word != word } }

/-- The bytes enter the write buffer as one bus write (R131). -/
def State.pushWrite (s : State) (cells : List Host.Cell) : State :=
  { s with memory := { s.memory with buffer := s.memory.buffer ++ [cells] } }

/-- The data cache's part of a store: a hit takes the lanes (R132). -/
def State.storeHit (s : State) (a : Nat) (w : Bool) (lanes : List LaneByte) : State :=
  let i := s.setIndex a
  let c := s.readSet i
  let line := c.way w
  s.writeSet i (s.touched (c.setWay w { line with data := writeLanes line.data lanes }) w s.autoLock)

/-- The write of some lanes of the word at physical address `a`: a locked hit stays in the cache (R141), any other
store goes to the write buffer too (R131, R132). -/
def State.dataWrite (s : State) (a : Nat) (cacheable : Bool) (lanes : List LaneByte) : State :=
  let hit := if cacheable && s.cp0.dce then s.hitWay a else none
  let locked := match hit with
    | some w => ((s.readSet (s.setIndex a)).way w).lock
    | none => false
  let s1 := match hit with
    | some w => s.storeHit a w lanes
    | none => s
  let s2 := s1.addStale a (s.nextPc.toNat / 16) false
  if locked then s2 else s2.pushWrite (laneCells s.platform.product.bigEndianMem a lanes)

/-! CACHE operations (R394 to R396) and the snoop (R142). -/

/-- HitInvalidate: the line that holds the word becomes invalid; its lock bit stays (R396). DESIGN CHOICE (log entry 60):
the LRU bit of the set stays too; R393 calls the access an ordinary data reference and no rule says that it moves R. -/
def State.hitInvalidate (s : State) (a : Nat) : State :=
  match s.hitWay a with
  | none => s
  | some w =>
    let i := s.setIndex a
    let c := s.readSet i
    s.writeSet i (c.setWay w { c.way w with valid := false })

/-- IndexLRUBitClear (R395). -/
def State.indexLruBitClear (s : State) (a : Nat) : State :=
  let i := s.setIndex a
  s.writeSet i { s.readSet i with lru := false }

/-- IndexLockBitClear: both lines of the set (R395). -/
def State.indexLockBitClear (s : State) (a : Nat) : State :=
  let i := s.setIndex a
  let c := s.readSet i
  s.writeSet i { c with way0 := { c.way0 with lock := false }, way1 := { c.way1 with lock := false } }

/-- The instruction cache index of an address: bits `9 + ICS - W` to 4 (R393). -/
def State.icacheIndex (s : State) (a : Nat) : Nat :=
  a / 16 % 2 ^ (6 + s.platform.product.ics.toNat - s.platform.product.icacheWaysLog2)

/-- IndexInvalidate (R394): every instruction cache line at the index becomes invalid, so the words of the index that
were stored to and synchronised become visible to cached fetches (D9). -/
def State.indexInvalidate (s : State) (a : Nat) : State :=
  { s with memory := { s.memory with
      icache := s.memory.icache.filter fun l => s.icacheIndex (16 * l.1) != s.icacheIndex a
      stale := s.memory.stale.map fun e =>
        { e with held := e.held && !(e.synced && s.icacheIndex e.word == s.icacheIndex a) } } }

/-- The snoop of an external write (R142): an unlocked line that holds the word becomes invalid and the LRU bit
designates it. -/
def State.snoop (s : State) (a : Nat) : State :=
  match s.hitWay a with
  | none => s
  | some w =>
    let i := s.setIndex a
    let c := s.readSet i
    if (c.way w).lock then s
    else s.writeSet i { c.setWay w { c.way w with valid := false } with lru := s.lruFor w }

/-! The stale words (D9). -/

/-- A SYNC or an uncached load after the stores so far. -/
def State.syncStale (s : State) : State :=
  { s with memory := { s.memory with stale := s.memory.stale.map fun e => { e with synced := true } } }

/-- The conditions under which an uncached fetch, or one with the instruction cache off, sees the stored value. -/
def StaleWord.visibleUncached (e : StaleWord) : Bool := e.synced && (e.jumped || e.left)

/-- The conditions under which a fetch through the instruction cache sees it: a SYNC, and no older copy in a valid line
(D9, R502). -/
def StaleWord.visibleCached (e : StaleWord) : Bool := e.synced && !e.held

/-- Execution arrives at `pc`, by a taken jump or not; words that every fetch sees leave the set. -/
def State.staleArrival (s : State) (jump : Bool) (pc : Word) : State :=
  let note (e : StaleWord) : StaleWord :=
    { e with jumped := e.jumped || (jump && e.synced), left := e.left || e.block != pc.toNat / 16 }
  { s with memory := { s.memory with
      stale := (s.memory.stale.map note).filter fun e => !(e.visibleCached && e.visibleUncached) } }

/-- Whether a fetch of a word, through the instruction cache or not, is refused. -/
def State.isStale (s : State) (word : Nat) (through : Bool) : Bool :=
  s.memory.stale.any fun e => e.word == word && !(if through then e.visibleCached else e.visibleUncached)

end Sys2Proof.Machine
end

