-- ==== Sys2Proof/Machine/Ops.lean ====
section
/-! DEFINITION. The operations that instructions share: completing, jumping, taking an exception and returning from
one, and reading and writing the CP0 registers (R300, R430, R431, R440, R465, R470, R380 to R384). -/

namespace Sys2Proof.Machine

/-- The outcome of a step of this machine. -/
abbrev Result := Host.Outcome State Fault Refusal

/-! Free values (93_implementation_defined.md). -/

/-- A free value for this step. -/
def State.free (s : State) (d : Draw) : Word := Config.freeWord d s.draws

/-! Completing an instruction (R300). -/

/-- The windows one instruction later (R524). -/
def Windows.age (w : Windows) : Windows :=
  { afterCp0Write := false, afterStatusMove := false, cu1 := 0#4, cu2 := w.cu1, ku1 := false, ku2 := w.ku1,
    bev1 := false, irq1 := none }

/-- Whether the instruction at `pc` stands in the delay slot of a jump that is taken: completing it transfers
control. -/
def Slot.jumps : Slot → Bool
  | .none => false
  | .branch _ taken => taken
  | .deret _ => true

def Slot.isNone : Slot → Bool
  | .none => true
  | _ => false

def Slot.isDeret : Slot → Bool
  | .deret _ => true
  | _ => false

/-- The fetch's sample of ICE when execution arrives at `pc` (R535): taken anew on a jump, and on entering another
16-byte block, where an MTC0 at the end of the old block is not yet seen (`sequentialIce`).
DESIGN CHOICE (log entry 55): R535 speaks of a jump executed after the MTC0; an MTC0 to Config that stands in the delay
slot of a taken jump, at whatever offset of its block, is seen by the fetch of the jump's target, because "the
instruction fetch for the instruction loaded at the branch destination address always references the ICE bit". -/
def State.nextIceSample (s : State) (sequentialIce : Bool) : Bool :=
  if s.slot.jumps then s.cp0.ice
  else if s.pc.toNat / 16 != s.nextPc.toNat / 16 then sequentialIce
  else s.hidden.iceSample

/-- The hidden state after an instruction completes (R97, R284, R362, R462, R524). -/
def State.completedHidden (s : State) (sequentialIce : Bool) (slot : Slot) : Hidden :=
  { s.hidden with
    hiloReadAge := if s.hidden.hiloReadAge = 0 then 1 else 2
    windows := s.hidden.windows.age
    ssSuppressed := s.slot.isDeret || (s.hidden.ssSuppressed && !slot.isNone)
    iceSample := s.nextIceSample sequentialIce
    cocPrev := s.platform.coc
    late := s.hidden.late.map fun e => { e with fresh := false } }

/-- An instruction completes: `pc <- next_pc; next_pc <- next` (R300). The instruction now at `pc` stands in `slot`.
Completing the delay slot of DERET clears Debug.DM (R389). -/
def State.advance (s : State) (sequentialIce : Bool) (next : Word) (slot : Slot) : State :=
  { (s.staleArrival s.slot.jumps s.nextPc) with
    pc := s.nextPc
    nextPc := next
    slot := slot
    cp0 := { s.cp0 with debugReg := { s.cp0.debugReg with dm := s.cp0.debugReg.dm && !s.slot.isDeret } }
    hidden := s.completedHidden sequentialIce slot
    draws := s.draws + 1 }

/-- An instruction that is no jump completes. -/
def State.retire (s : State) : State := s.advance s.cp0.ice (s.nextPc + 4#32) .none

/-- A jump or branch completes: the instruction at `next_pc` is its delay slot. -/
def State.jump (s : State) (target : Word) : State := s.advance s.cp0.ice target (.branch s.pc true)

/-- A branch that is not taken completes; its delay slot is executed. -/
def State.fallThrough (s : State) : State := s.advance s.cp0.ice (s.nextPc + 4#32) (.branch s.pc false)

/-- A likely branch that is not taken completes; its delay slot is nullified (R303). -/
def State.nullify (s : State) : State :=
  { s with nextPc := s.pc + 8#32 }.advance s.cp0.ice (s.pc + 12#32) .none

/-! Taking an ordinary exception (R430, R431). -/

/-- The ordinary exceptions the core raises (R420), with what their entry needs. -/
inductive Exception where
  | interrupt
  /-- AdEL of a load or a fetch. -/
  | addressLoad (vAddr : Word)
  /-- AdES. -/
  | addressStore (vAddr : Word)
  | busErrorFetch
  /-- DBE; `exact` when R462 guarantees EPC. -/
  | busErrorData (exact : Bool)
  | syscall
  | breakpoint
  | reservedInstruction
  | coprocessorUnusable (z : BitVec 2)
  | overflow
  deriving DecidableEq, Repr

/-- ExcCode (R420). -/
def Exception.code : Exception → BitVec 5
  | .interrupt => 0#5
  | .addressLoad _ => 4#5
  | .addressStore _ => 5#5
  | .busErrorFetch => 6#5
  | .busErrorData _ => 7#5
  | .syscall => 8#5
  | .breakpoint => 9#5
  | .reservedInstruction => 10#5
  | .coprocessorUnusable _ => 11#5
  | .overflow => 12#5

/-- The address to resume at: the victim, or the jump or branch before it (R430). -/
def State.resumeAddress (s : State) : Word :=
  match s.slot with
  | .none => s.pc
  | .branch a _ => a
  | .deret a => a

/-- Whether the victim stands in a delay slot (R430). -/
def State.inDelaySlot (s : State) : Bool := !s.slot.isNone

/-- `Status[5:0] <- Status[3:0] || 00` (R431). -/
def pushStatus (status : Word) : Word := setBits 0 (status.extractLsb' 0 4 ++ 0#2) status

/-- `Cache[13:8] <- Cache[11:8] || 00` (R431). -/
def pushCache (cache : Word) : Word := setBits 8 (cache.extractLsb' 8 4 ++ 0#2) cache

/-- `Status[3:0] <- Status[5:2]` (R440). -/
def popStatus (status : Word) : Word := setBits 0 (status.extractLsb' 2 4) status

/-- `Cache[11:8] <- Cache[13:10]` (R440). -/
def popCache (cache : Word) : Word := setBits 8 (cache.extractLsb' 10 4) cache

/-- Cause after an entry: BD, CE and ExcCode are written, Sw is kept (R430, R53). -/
def causeWord (old : Word) (bd : Bool) (ce : BitVec 2) (code : BitVec 5) : Word :=
  bitAt 31 bd ||| setBits 28 ce 0#32 ||| (old &&& causeMask) ||| setBits 2 code 0#32

/-- The mode stacks are pushed, and EPC and Cause written (R430). -/
def Cp0.enter (c : Cp0) (epc : Word) (bd : Bool) (ce : BitVec 2) (code : BitVec 5) : Cp0 :=
  { c with status := pushStatus c.status, cache := pushCache c.cache, epc := epc,
           cause := causeWord c.cause bd ce code }

/-- A free value for Cause.CE (U17). -/
def State.freeCe (s : State) : BitVec 2 := (s.free .causeCe).extractLsb' 0 2

/-- Cause.CE after an entry: the coprocessor for CpU, otherwise any value (R430, U17). -/
def State.entryCe (s : State) : Exception → BitVec 2
  | .coprocessorUnusable z => z
  | _ => s.freeCe

/-- Whether the entry's EPC and BD are those of R430: not for IBE, nor for DBE outside the cases of R462 (U19). -/
def Exception.exactEpc : Exception → Bool
  | .busErrorFetch => false
  | .busErrorData exact => exact
  | _ => true

def State.entryEpc (s : State) (e : Exception) : Word :=
  if e.exactEpc then s.resumeAddress else s.free .busErrorEpc

def State.entryBd (s : State) (e : Exception) : Bool :=
  if e.exactEpc then s.inDelaySlot else (s.free .busErrorBd).getLsbD 0

/-- BadVAddr after an entry: written by an Address Error only (R55, R430). -/
def Exception.badVAddr (e : Exception) (old : Word) : Word :=
  match e with
  | .addressLoad v => v
  | .addressStore v => v
  | _ => old

/-- The CP0 registers after the entry to an ordinary exception (R430). -/
def State.recordedCp0 (s : State) (e : Exception) : Cp0 :=
  { s.cp0.enter (s.entryEpc e) (s.entryBd e) (s.entryCe e) e.code with badVAddr := e.badVAddr s.cp0.badVAddr }

/-- Every register update of an entry but the pc (R430, R477). -/
def State.record (s : State) (e : Exception) : State := { s with cp0 := s.recordedCp0 e }

/-- The common vector (R425). -/
def commonVector (bev : Bool) : Word := if bev then 0xBFC00180#32 else 0x80000080#32

/-- BEV as a fetch Address Error, an interrupt or a late data bus error sees it: in the write window either value
(R527). -/
def State.bevSeen (s : State) : Bool :=
  if s.hidden.windows.bev1 then Config.race .vector s.draws else s.cp0.bev

/-- BEV as an event at a boundary sees it: a fetch Bus Error uses the new value, as every synchronous exception but
the fetch Address Error does (R527). -/
def State.boundaryBev (s : State) (e : Exception) : Bool :=
  if e = .busErrorFetch then s.cp0.bev else s.bevSeen

/-- The debug vector and the vector of Reset and NmI (R425). -/
def debugVector : Word := 0xBFC00200#32
def nmiVector : Word := 0xBFC00000#32

/-- The windows after an exception: one instruction later if an instruction raised it (`byInstruction`). Hardware
has written KUc, and the interrupt and BEV windows are over, which is log entry 59 too where no instruction raised it.
DESIGN CHOICE (log entry 59): an event at a boundary, a fetch that faults among them, is no instruction for the windows
of R384, R387 and R525, although R527 numbers an instruction whose fetch faults as instruction 1: those windows are as
old at the first instruction of the handler as they were at the boundary. An SDBBP beside the event is one (log entry
62). -/
def Windows.afterEntry (w : Windows) (byInstruction : Bool) : Windows :=
  if byInstruction then { w.age with ku2 := false }
  else { w with ku1 := false, ku2 := false, bev1 := false, irq1 := none }

/-- `pc <- vector; next_pc <- pc + 4`: any pending jump is dropped (R430). An instruction that raised the exception
(`byInstruction`) was the one during which the coprocessor conditions were sampled for the next (R362).
DESIGN CHOICE (log entry 54): an instruction that raises an exception is abandoned (R16, R411, R430), so it adds nothing
to `hilo_read_age` (R283, R520), although the CP0 windows count it (R524).
DESIGN CHOICE (log entry 16): a failed load is `fresh` for the next instruction of its own sequence only; a SYNC that is
the first instruction of a handler entered at the boundary right after the load reports it with EPC and BD open, though
R218 and R462 could be read to give them. -/
def State.goVector (s : State) (vector : Word) (byInstruction : Bool) : State :=
  { (s.staleArrival false vector) with
    pc := vector
    nextPc := vector + 4#32
    slot := .none
    hidden := { s.hidden with
      windows := s.hidden.windows.afterEntry byInstruction
      ssSuppressed := false
      iceSample := s.cp0.ice
      cocPrev := if byInstruction then s.platform.coc else s.hidden.cocPrev
      late := s.hidden.late.map fun e => { e with fresh := false } }
    draws := s.draws + 1 }

/-- The entry made when an instruction raises an exception (R430), with DM = 0. -/
def State.exceptionEntry (s : State) (e : Exception) : State :=
  (s.record e).goVector (commonVector s.cp0.bev) true

/-- The entry made at a boundary, for an event that is not of the instruction's execution (R430, R527). -/
def State.boundaryEntry (s : State) (e : Exception) : State :=
  (s.record e).goVector (commonVector (s.boundaryBev e)) false

/-- An instruction raises an exception: the entry, or with DM = 1 a refusal (U16). -/
def State.raise (s : State) (e : Exception) : Result :=
  if s.inDebug then .refused .exceptionInDebugMode else .next (s.exceptionEntry e)

/-! The non-maskable interrupt (R465). -/

/-- Status.NmI set (R45). -/
def nmiBit : Word := 0x00100000#32

/-- Config.Halt and Config.Doze cleared (R465, R482). -/
def wakeConfig (config : Word) : Word := config &&& ~~~0x00000300#32

/-- Every register update of the NmI entry but the pc: the push of R431 too (D26). CE and ExcCode are any value. -/
def State.recordNmi (s : State) : State :=
  let c := s.cp0.enter s.resumeAddress s.inDelaySlot s.freeCe ((s.free .causeCode).extractLsb' 0 5)
  { s with
    cp0 := { c with status := c.status ||| nmiBit, config := wakeConfig c.config }
    hidden := { s.hidden with nmiPending := false } }

def State.nmiEntry (s : State) : State := s.recordNmi.goVector nmiVector false

/-! Debug exceptions (R470). -/

/-- The entry to a debug exception for the instruction at `pc`: Single Step, or Debug Breakpoint. -/
def State.debugEntry (s : State) (singleStep nis oes : Bool) : State :=
  let d := { s.cp0.debugReg with
    dbd := s.inDelaySlot, dm := true, dss := singleStep, dbp := !singleStep, nis := nis, oes := oes }
  { s with cp0 := { s.cp0 with depc := s.resumeAddress, debugReg := d } }.goVector debugVector (!singleStep)

/-- SDBBP: the Debug Breakpoint entry, or with DM = 1 a refusal (R472, U8). -/
def State.raiseDebugBreakpoint (s : State) : Result :=
  if s.inDebug then .refused .sdbbpInDebugMode else .next (s.debugEntry false false false)

/-! Returning (R386, R440). -/

/-- RFE's pop of the mode stacks. -/
def Cp0.popModes (c : Cp0) : Cp0 := { c with status := popStatus c.status, cache := popCache c.cache }

/-! The CP0 registers by number (R38). -/

/-- PRId (R62). -/
def Platform.prid (p : Platform) : Word := 0x00002200#32 ||| p.product.rev.setWidth 32

/-- Cause as it reads: IP shows the lines (R51). -/
def State.readCause (s : State) : Word := s.cp0.cause ||| (s.platform.intLines.setWidth 32 <<< (10 : Nat))

/-- Debug as it reads, at the positions of the product; the "<R>" bits are any value (R81, U25). -/
def State.readDebug (s : State) : Word :=
  let d := s.cp0.debugReg
  let p := s.platform.product.debugPositions
  let any := s.free .debugReserved
  bitAt p.dbd d.dbd ||| bitAt p.dm d.dm ||| bitAt p.nis d.nis ||| bitAt p.oes d.oes ||| bitAt p.tlf d.tlf |||
    bitAt p.bsf d.bsf ||| bitAt p.sst d.sst ||| bitAt 1 d.dbp ||| bitAt 0 d.dss |||
    p.reserved.foldl (fun w i => w ||| bitAt i (any.getLsbD i)) 0#32

/-- `CPR[0, rd]` (R380); a reserved number reads as any value (R383). -/
def State.readCp0 (s : State) (rd : RegIndex) : Word :=
  if rd = 3#5 then s.cp0.config
  else if rd = 7#5 then s.cp0.cache
  else if rd = 8#5 then s.cp0.badVAddr
  else if rd = 12#5 then s.cp0.status
  else if rd = 13#5 then s.readCause
  else if rd = 14#5 then s.cp0.epc
  else if rd = 15#5 then s.platform.prid
  else if rd = 16#5 then s.readDebug
  else if rd = 17#5 then s.cp0.depc
  else s.free .reservedCp0

/-- Status after a write: the writable bits, and NmI cleared by a 1 (R41, R45, R382). -/
def writtenStatus (old v : Word) : Word := maskWrite statusMask old v &&& ~~~(v &&& nmiBit)

/-- Config after a write: nothing while Lock is set (R67). -/
def Cp0.writtenConfig (c : Cp0) (v : Word) : Word :=
  if c.configLock then c.config else maskWrite configMask c.config v

/-- `CPR[0, rd] <- v` through the write rules of the register (R382). -/
def State.writeCp0 (s : State) (rd : RegIndex) (v : Word) : State :=
  let c := s.cp0
  if rd = 3#5 then { s with cp0 := { c with config := c.writtenConfig v } }
  else if rd = 7#5 then { s with cp0 := { c with cache := maskWrite cacheMask c.cache v } }
  else if rd = 12#5 then { s with cp0 := { c with status := writtenStatus c.status v } }
  else if rd = 13#5 then { s with cp0 := { c with cause := maskWrite causeMask c.cause v } }
  else if rd = 16#5 then
    let p := s.platform.product.debugPositions
    { s with cp0 := { c with debugReg := { c.debugReg with sst := v.getLsbD p.sst, bsf := v.getLsbD p.bsf } } }
  else if rd = 17#5 then { s with cp0 := { c with depc := v } }
  else s

/-- The windows that an MTC0 opens, `old` being CP0 before it and `new` after (R384, R387, R524 to R529). -/
def openedWindows (w : Windows) (rd : RegIndex) (old new : Cp0) : Windows :=
  let status := rd = 12#5
  { w.age with
    afterCp0Write := status || rd = 3#5 || rd = 7#5
    afterStatusMove := status
    cu1 := old.cu ^^^ new.cu
    ku1 := old.kuc != new.kuc
    bev1 := old.bev != new.bev
    irq1 := if status || rd = 13#5 then some (old.enabledMask, old.sw) else none }

/-! Coprocessors 1 to 3 (R351). -/

def Platform.cop (p : Platform) (z : BitVec 2) : Coprocessor :=
  if z = 1#2 then p.cop1 else if z = 2#2 then p.cop2 else p.cop3

def Platform.setCop (p : Platform) (z : BitVec 2) (c : Coprocessor) : Platform :=
  if z = 1#2 then { p with cop1 := c } else if z = 2#2 then { p with cop2 := c } else { p with cop3 := c }

/-- `cp_present[z]` (D21). -/
def Platform.present (p : Platform) (z : BitVec 2) : Bool := p.product.cpPresent.getLsbD z.toNat

/-- The condition inputs with `COC[z]` replaced. -/
def setCondition (coc : BitVec 4) (z : BitVec 2) (b : Bool) : BitVec 4 := withBit coc z.toNat b

/-! Outcomes. -/

/-- The instruction completes with this state. -/
def complete (s : State) : Result := .next s.retire

/-- An instruction of coprocessor `z` (R350, R180). -/
def State.withCop (s : State) (z : BitVec 2) (run : Result) : Result :=
  if s.usable z then run else s.raise (.coprocessorUnusable z)

end Sys2Proof.Machine
end

