-- ==== Sys2Proof/Machine/Alu.lean ====
section
/-! DEFINITION. Computational instructions: immediate, three-operand and shift (41_computational.md). -/

namespace Sys2Proof.Machine

/-- A result goes to a register and the instruction completes (R230). -/
def writeAndComplete (s : State) (rd : RegIndex) (v : Word) : Result := complete (s.writeReg rd v)

/-- The same, unless the operation overflows (R231, R456). -/
def writeUnlessOverflow (s : State) (overflow : Bool) (rd : RegIndex) (v : Word) : Result :=
  if overflow then s.raise .overflow else writeAndComplete s rd v

/-- ADDI (R233). -/
def execAddi (rs rt : RegIndex) (immediate : BitVec 16) (s : State) : Result :=
  let b := sext16 immediate
  writeUnlessOverflow s (overflowAdd (s.reg rs) b) rt (s.reg rs + b)

/-- ADDIU (R234). -/
def execAddiu (rs rt : RegIndex) (immediate : BitVec 16) (s : State) : Result :=
  writeAndComplete s rt (s.reg rs + sext16 immediate)

/-- SLTI (R235). -/
def execSlti (rs rt : RegIndex) (immediate : BitVec 16) (s : State) : Result :=
  writeAndComplete s rt (boolWord (lessSigned (s.reg rs) (sext16 immediate)))

/-- SLTIU (R236). -/
def execSltiu (rs rt : RegIndex) (immediate : BitVec 16) (s : State) : Result :=
  writeAndComplete s rt (boolWord (lessUnsigned (s.reg rs) (sext16 immediate)))

/-- ANDI (R237). -/
def execAndi (rs rt : RegIndex) (immediate : BitVec 16) (s : State) : Result :=
  writeAndComplete s rt (s.reg rs &&& zext16 immediate)

/-- ORI (R238). -/
def execOri (rs rt : RegIndex) (immediate : BitVec 16) (s : State) : Result :=
  writeAndComplete s rt (s.reg rs ||| zext16 immediate)

/-- XORI (R239). -/
def execXori (rs rt : RegIndex) (immediate : BitVec 16) (s : State) : Result :=
  writeAndComplete s rt (s.reg rs ^^^ zext16 immediate)

/-- LUI (R240). -/
def execLui (rt : RegIndex) (immediate : BitVec 16) (s : State) : Result :=
  writeAndComplete s rt (immediate ++ 0#16)

/-- ADD (R241). -/
def execAdd (rs rt rd : RegIndex) (s : State) : Result :=
  writeUnlessOverflow s (overflowAdd (s.reg rs) (s.reg rt)) rd (s.reg rs + s.reg rt)

/-- ADDU (R242). -/
def execAddu (rs rt rd : RegIndex) (s : State) : Result :=
  writeAndComplete s rd (s.reg rs + s.reg rt)

/-- SUB (R243). -/
def execSub (rs rt rd : RegIndex) (s : State) : Result :=
  writeUnlessOverflow s (overflowSub (s.reg rs) (s.reg rt)) rd (s.reg rs - s.reg rt)

/-- SUBU (R244). -/
def execSubu (rs rt rd : RegIndex) (s : State) : Result :=
  writeAndComplete s rd (s.reg rs - s.reg rt)

/-- SLT (R245). -/
def execSlt (rs rt rd : RegIndex) (s : State) : Result :=
  writeAndComplete s rd (boolWord (lessSigned (s.reg rs) (s.reg rt)))

/-- SLTU (R246). -/
def execSltu (rs rt rd : RegIndex) (s : State) : Result :=
  writeAndComplete s rd (boolWord (lessUnsigned (s.reg rs) (s.reg rt)))

/-- AND (R247). -/
def execAnd (rs rt rd : RegIndex) (s : State) : Result :=
  writeAndComplete s rd (s.reg rs &&& s.reg rt)

/-- OR (R248). -/
def execOr (rs rt rd : RegIndex) (s : State) : Result :=
  writeAndComplete s rd (s.reg rs ||| s.reg rt)

/-- XOR (R248). -/
def execXor (rs rt rd : RegIndex) (s : State) : Result :=
  writeAndComplete s rd (s.reg rs ^^^ s.reg rt)

/-- NOR (R249). -/
def execNor (rs rt rd : RegIndex) (s : State) : Result :=
  writeAndComplete s rd (~~~(s.reg rs ||| s.reg rt))

/-- SLL (R250). -/
def execSll (rt rd : RegIndex) (sa : BitVec 5) (s : State) : Result :=
  writeAndComplete s rd (s.reg rt <<< sa.toNat)

/-- SRL (R251). -/
def execSrl (rt rd : RegIndex) (sa : BitVec 5) (s : State) : Result :=
  writeAndComplete s rd (s.reg rt >>> sa.toNat)

/-- SRA (R252). -/
def execSra (rt rd : RegIndex) (sa : BitVec 5) (s : State) : Result :=
  writeAndComplete s rd ((s.reg rt).sshiftRight sa.toNat)

/-- SLLV (R253). -/
def execSllv (rs rt rd : RegIndex) (s : State) : Result :=
  writeAndComplete s rd (s.reg rt <<< shiftCount (s.reg rs))

/-- SRLV (R254). -/
def execSrlv (rs rt rd : RegIndex) (s : State) : Result :=
  writeAndComplete s rd (s.reg rt >>> shiftCount (s.reg rs))

/-- SRAV (R255). -/
def execSrav (rs rt rd : RegIndex) (s : State) : Result :=
  writeAndComplete s rd ((s.reg rt).sshiftRight (shiftCount (s.reg rs)))

end Sys2Proof.Machine
end

