-- ==== Sys2Proof/Machine/Fetch.lean ====
section
/-! DEFINITION. Instruction fetch (R107, R108, R111, R114, R147, R461, R535; D9, D10, D27). -/

namespace Sys2Proof.Machine

/-- The answer to a fetch. -/
inductive FetchResult where
  /-- The instruction word. -/
  | word (w : Word)
  /-- An Address Error of the fetch (R108, R112). -/
  | addressError
  /-- A bus error in the fetch's transaction (R460, D27). -/
  | busError
  /-- The word may be an old one (D9). -/
  | stale
  deriving DecidableEq, Repr

/-- Whether a fetch at a translated address goes through the instruction cache (R114, R535). -/
def fetchThrough (t : Translation) (iceSample : Bool) : Bool := t.cacheable && iceSample

/-- The word that a fetch finds in the instruction cache. A fetch of a line that nothing has filled since Reset or
IndexInvalidate misses (R98, R394); whether a filled line has been replaced meanwhile is open, because the cache's
organisation is lost (N14). -/
def State.fetchHit (s : State) (word : Nat) (through : Bool) : Option Word :=
  match if through then s.instructionLine (word / 16) else none with
  | none => none
  | some words =>
    if Config.race (.lineReplaced (word / 16)) s.draws then none
    else some (words[word / 4 % 4]'(Nat.mod_lt _ (by decide)))

/-- The words of the fetch's transaction (D27): the refill block, or the aligned 16 bytes. -/
def State.fetchBlock (s : State) (word : Nat) (through : Bool) : List Nat :=
  blockWords (if through then refillBytes s.cp0.irSize else 16) word

/-- The fetch at `pc` with a sample of ICE: the word in `BigEndianMem` order in both modes (R107). -/
def State.fetchAt (s : State) (pc : Word) (iceSample : Bool) : FetchResult :=
  if unaligned4 pc || s.kernelAddressInUserMode pc then .addressError
  else
    let t := segmentMap pc
    let word := wordAddress t.pAddr
    let through := fetchThrough t iceSample
    match s.fetchHit word through with
    | some w => if s.isStale word through then .stale else .word w
    | none =>
      if (s.fetchBlock word through).any s.platform.readFails then .busError
      else if s.isStale word through then .stale
      else .word (s.readWord word)

/-- The fetch of the instruction at `pc`. -/
def State.fetch (s : State) : FetchResult := s.fetchAt s.pc s.hidden.iceSample

/-- One line of an instruction cache refill. -/
def State.fillLine (s : State) (line : Nat) : State :=
  let a := 16 * line
  let words : Vector Word 4 := #v[s.readWord a, s.readWord (a + 4), s.readWord (a + 8), s.readWord (a + 12)]
  { s with memory := { s.memory with icache := Sparse.write none s.memory.icache line (some words) } }

/-- The lines of the refill block around a word (R138). -/
def State.fetchLines (s : State) (word : Nat) : List Nat :=
  let size := refillBytes s.cp0.irSize
  (List.range (size / 16)).map fun k => word / size * (size / 16) + k

/-- An instruction cache refill (R138): the lines become valid. A word stored to and not yet synchronised may be in them
with its old value (D9). -/
def State.fillLines (s : State) (lines : List Nat) : State :=
  let t := lines.foldl State.fillLine s
  { t with memory := { t.memory with
      stale := t.memory.stale.map fun e => { e with held := e.held || (!e.synced && lines.contains (e.word / 16)) } } }

/-- The state after the fetch: an uncached or a refilling fetch has drained the write buffer (D10) and is seen by the
devices it reads; a refill has filled its lines. -/
def State.fetched (s : State) : State :=
  let t := segmentMap s.pc
  let word := wordAddress t.pAddr
  let through := fetchThrough t s.hidden.iceSample
  match s.fetchHit word through with
  | some _ => s
  | none =>
    let u := if through then s.drain.fillLines (s.fetchLines word) else s.drain
    u.seenByDevices (s.fetchBlock word through) .fetch

/-- A word that counts as a jump or branch for the placement rule (R304, R522). -/
def Instr.isJump : Instr → Bool
  | .j _ | .jal _ | .jr _ | .jalr _ _ | .deret => true
  | .beq _ _ _ | .bne _ _ _ | .blez _ _ | .bgtz _ _ | .bltz _ _ | .bgez _ _ | .bltzal _ _ | .bgezal _ _ => true
  | .beql _ _ _ | .bnel _ _ _ | .blezl _ _ | .bgtzl _ _ | .bltzl _ _ | .bgezl _ _ | .bltzall _ _
  | .bgezall _ _ => true
  | .bc0f _ | .bc1f _ | .bc2f _ | .bc3f _ | .bc0t _ | .bc1t _ | .bc2t _ | .bc3t _ => true
  | .bc0fl _ | .bc1fl _ | .bc2fl _ | .bc3fl _ | .bc0tl _ | .bc1tl _ | .bc2tl _ | .bc3tl _ => true
  | _ => false

/-- The decoded word is a jump or branch. -/
def Decoded.isJump (d : Decoded) : Bool :=
  match d.toInstr? with
  | some i => Instr.isJump i
  | none => false

/-- The fetch of the delay slot of the branch at `pc`, made as execution arrives there: a word stored to from a block
that the slot has left is seen as D9 says. -/
def State.fetchSlot (s : State) : FetchResult :=
  let slot := s.pc + 4#32
  (s.staleArrival false slot).fetchAt slot (if s.pc.toNat / 16 != slot.toNat / 16 then s.cp0.ice else s.hidden.iceSample)

/-- A likely branch that is not taken (R303): the nullified word is looked at for the placement check only, which
changes nothing (D18), and if its fetch would fault the check passes (R304, D17). -/
def State.nullifySlot (s : State) : Result :=
  match s.fetchSlot with
  | .word w => if Decoded.isJump (decode w) then .refused .branchInDelaySlot else .next s.nullify
  | .addressError => .next s.nullify
  | .busError => .next s.nullify
  | .stale => .refused .staleFetch

end Sys2Proof.Machine
end

