-- ==== Sys2Proof/Machine/Branch.lean ====
section
/-! DEFINITION. Jumps and branches (43_jump_branch.md). -/

namespace Sys2Proof.Machine

/-- A jump or branch in a delay slot is refused (R304, D17). -/
def outsideSlot (s : State) (run : Result) : Result :=
  if s.inDelaySlot then .refused .branchInDelaySlot else run

/-- A branch (R302): its delay slot is executed either way. -/
def branch (s : State) (condition : Bool) (offset : BitVec 16) : Result :=
  outsideSlot s (.next (if condition then s.jump (s.branchTarget offset) else s.fallThrough))

/-- A likely branch (R303): its delay slot is nullified when it is not taken. -/
def branchLikely (s : State) (condition : Bool) (offset : BitVec 16) : Result :=
  outsideSlot s (if condition then .next (s.jump (s.branchTarget offset)) else s.nullifySlot)

/-- The link register takes `pc + 8` (R301). -/
def State.link (s : State) : State := s.writeReg linkRegister s.linkValue

/-- J (R306). -/
def execJ (target : BitVec 26) (s : State) : Result :=
  outsideSlot s (.next (s.jump (s.jumpTarget target)))

/-- JAL (R307). -/
def execJal (target : BitVec 26) (s : State) : Result :=
  outsideSlot s (.next (s.link.jump (s.jumpTarget target)))

/-- JR (R308). -/
def execJr (rs : RegIndex) (s : State) : Result :=
  outsideSlot s (.next (s.jump (s.reg rs)))

/-- JALR (R309). -/
def execJalr (rs rd : RegIndex) (s : State) : Result :=
  outsideSlot s (if rs = rd then .refused .jalrSameRegister
    else .next ((s.writeReg rd s.linkValue).jump (s.reg rs)))

/-- BEQ (R311). -/
def execBeq (rs rt : RegIndex) (offset : BitVec 16) (s : State) : Result :=
  branch s (s.reg rs == s.reg rt) offset

/-- BNE (R312). -/
def execBne (rs rt : RegIndex) (offset : BitVec 16) (s : State) : Result :=
  branch s (s.reg rs != s.reg rt) offset

/-- BLEZ (R313). -/
def execBlez (rs : RegIndex) (offset : BitVec 16) (s : State) : Result :=
  branch s (isNotPositive (s.reg rs)) offset

/-- BGTZ (R314). -/
def execBgtz (rs : RegIndex) (offset : BitVec 16) (s : State) : Result :=
  branch s (isPositive (s.reg rs)) offset

/-- BLTZ (R315). -/
def execBltz (rs : RegIndex) (offset : BitVec 16) (s : State) : Result :=
  branch s (isNegative (s.reg rs)) offset

/-- BGEZ (R316). -/
def execBgez (rs : RegIndex) (offset : BitVec 16) (s : State) : Result :=
  branch s (isNotNegative (s.reg rs)) offset

/-- BLTZAL (R317). -/
def execBltzal (rs : RegIndex) (offset : BitVec 16) (s : State) : Result :=
  branch s.link (isNegative (s.reg rs)) offset

/-- BGEZAL (R318). -/
def execBgezal (rs : RegIndex) (offset : BitVec 16) (s : State) : Result :=
  branch s.link (isNotNegative (s.reg rs)) offset

/-- BEQL (R319). -/
def execBeql (rs rt : RegIndex) (offset : BitVec 16) (s : State) : Result :=
  branchLikely s (s.reg rs == s.reg rt) offset

/-- BNEL (R320). -/
def execBnel (rs rt : RegIndex) (offset : BitVec 16) (s : State) : Result :=
  branchLikely s (s.reg rs != s.reg rt) offset

/-- BLEZL (R321). -/
def execBlezl (rs : RegIndex) (offset : BitVec 16) (s : State) : Result :=
  branchLikely s (isNotPositive (s.reg rs)) offset

/-- BGTZL (R322). -/
def execBgtzl (rs : RegIndex) (offset : BitVec 16) (s : State) : Result :=
  branchLikely s (isPositive (s.reg rs)) offset

/-- BLTZL (R323). -/
def execBltzl (rs : RegIndex) (offset : BitVec 16) (s : State) : Result :=
  branchLikely s (isNegative (s.reg rs)) offset

/-- BGEZL (R324). -/
def execBgezl (rs : RegIndex) (offset : BitVec 16) (s : State) : Result :=
  branchLikely s (isNotNegative (s.reg rs)) offset

/-- BLTZALL (R325). -/
def execBltzall (rs : RegIndex) (offset : BitVec 16) (s : State) : Result :=
  branchLikely s.link (isNegative (s.reg rs)) offset

/-- BGEZALL (R326). -/
def execBgezall (rs : RegIndex) (offset : BitVec 16) (s : State) : Result :=
  branchLikely s.link (isNotNegative (s.reg rs)) offset

end Sys2Proof.Machine
end

