-- ==== Sys2Proof/Machine/Coprocessor.lean ====
section
/-! DEFINITION. Coprocessor instructions (45_coprocessor.md) and the LWCz and SWCz words (R177, R364). -/

namespace Sys2Proof.Machine

/-- A register of coprocessor `z` as MFCz or CFCz reads it; an absent coprocessor gives any value (D21). -/
def State.readCop (s : State) (z : BitVec 2) (file : Coprocessor → Vector Word 32) (rd : RegIndex) : Word :=
  if s.platform.present z then (file (s.platform.cop z))[rd.toNat]'rd.isLt else s.free .absentCoprocessor

/-- MFCz and CFCz (R356, R353). -/
def moveFromCop (z : BitVec 2) (file : Coprocessor → Vector Word 32) (rt rd : RegIndex) (s : State) : Result :=
  s.withCop z (complete (s.writeReg rt (s.readCop z file rd)))

/-- The coprocessor with a register written; an absent one takes nothing (D21). -/
def State.updateCop (s : State) (z : BitVec 2) (f : Coprocessor → Coprocessor) : State :=
  if s.platform.present z then { s with platform := s.platform.setCop z (f (s.platform.cop z)) } else s

/-- MTCz (R352). -/
def moveToCop (z : BitVec 2) (rt rd : RegIndex) (s : State) : Result :=
  s.withCop z (complete (s.updateCop z fun c => { c with gpr := c.gpr.set rd.toNat (s.reg rt) rd.isLt }))

/-- CTCz (R354). -/
def moveControlToCop (z : BitVec 2) (rt rd : RegIndex) (s : State) : Result :=
  s.withCop z (complete (s.updateCop z fun c => { c with ctl := c.ctl.set rd.toNat (s.reg rt) rd.isLt }))

/-- The platform after `COPz cofun`: the coprocessor and its condition (R355, D22). -/
def Platform.operate (p : Platform) (z : BitVec 2) (cofun : BitVec 25) (draw : Nat) : Platform :=
  let r := Config.copOp z.toNat cofun draw (p.cop z) (p.coc.getLsbD z.toNat)
  { p.setCop z r.1 with coc := setCondition p.coc z r.2 }

/-- COPz (R355): it completes; then the coprocessor has done the operation. The condition sampled for a BCz that
follows at once is the one before the operation (R362). -/
def copOperation (z : BitVec 2) (cofun : BitVec 25) (s : State) : Result :=
  s.withCop z (.next (if s.platform.present z
    then { s.retire with platform := s.platform.operate z cofun s.draws } else s.retire))

/-- A branch on the condition of coprocessor `z` sampled during the instruction before (R358, R359). -/
def copBranch (z : BitVec 2) (onTrue : Bool) (offset : BitVec 16) (s : State) : Result :=
  outsideSlot s (s.withCop z (branch s (s.hidden.cocPrev.getLsbD z.toNat == onTrue) offset))

/-- The likely form (R360, R361). -/
def copBranchLikely (z : BitVec 2) (onTrue : Bool) (offset : BitVec 16) (s : State) : Result :=
  outsideSlot s (s.withCop z (branchLikely s (s.hidden.cocPrev.getLsbD z.toNat == onTrue) offset))

/-- CFC0 and CTC0: not valid for CP0 (R357, D23). -/
def controlMoveOfCp0 (s : State) : Result := s.withCop 0#2 (.refused .controlMoveOfCp0)

/-- MFC1 (R356). -/
def execMfc1 (rt rd : RegIndex) (s : State) : Result :=
  moveFromCop 1#2 Coprocessor.gpr rt rd s

/-- CFC1 (R353). -/
def execCfc1 (rt rd : RegIndex) (s : State) : Result :=
  moveFromCop 1#2 Coprocessor.ctl rt rd s

/-- MTC1 (R352). -/
def execMtc1 (rt rd : RegIndex) (s : State) : Result :=
  moveToCop 1#2 rt rd s

/-- CTC1 (R354). -/
def execCtc1 (rt rd : RegIndex) (s : State) : Result :=
  moveControlToCop 1#2 rt rd s

/-- COP1 (R355). -/
def execCop1 (cofun : BitVec 25) (s : State) : Result :=
  copOperation 1#2 cofun s

/-- LWC1 (R177). -/
def execLwc1 (_base _rt : RegIndex) (_offset : BitVec 16) (s : State) : Result :=
  s.raise .reservedInstruction

/-- SWC1 (R177). -/
def execSwc1 (_base _rt : RegIndex) (_offset : BitVec 16) (s : State) : Result :=
  s.raise .reservedInstruction

/-- MFC2 (R356). -/
def execMfc2 (rt rd : RegIndex) (s : State) : Result :=
  moveFromCop 2#2 Coprocessor.gpr rt rd s

/-- CFC2 (R353). -/
def execCfc2 (rt rd : RegIndex) (s : State) : Result :=
  moveFromCop 2#2 Coprocessor.ctl rt rd s

/-- MTC2 (R352). -/
def execMtc2 (rt rd : RegIndex) (s : State) : Result :=
  moveToCop 2#2 rt rd s

/-- CTC2 (R354). -/
def execCtc2 (rt rd : RegIndex) (s : State) : Result :=
  moveControlToCop 2#2 rt rd s

/-- COP2 (R355). -/
def execCop2 (cofun : BitVec 25) (s : State) : Result :=
  copOperation 2#2 cofun s

/-- LWC2 (R177). -/
def execLwc2 (_base _rt : RegIndex) (_offset : BitVec 16) (s : State) : Result :=
  s.raise .reservedInstruction

/-- SWC2 (R177). -/
def execSwc2 (_base _rt : RegIndex) (_offset : BitVec 16) (s : State) : Result :=
  s.raise .reservedInstruction

/-- MFC3 (R356). -/
def execMfc3 (rt rd : RegIndex) (s : State) : Result :=
  moveFromCop 3#2 Coprocessor.gpr rt rd s

/-- CFC3 (R353). -/
def execCfc3 (rt rd : RegIndex) (s : State) : Result :=
  moveFromCop 3#2 Coprocessor.ctl rt rd s

/-- MTC3 (R352). -/
def execMtc3 (rt rd : RegIndex) (s : State) : Result :=
  moveToCop 3#2 rt rd s

/-- CTC3 (R354). -/
def execCtc3 (rt rd : RegIndex) (s : State) : Result :=
  moveControlToCop 3#2 rt rd s

/-- COP3 (R355). -/
def execCop3 (cofun : BitVec 25) (s : State) : Result :=
  copOperation 3#2 cofun s

/-- LWC3 (R177). -/
def execLwc3 (_base _rt : RegIndex) (_offset : BitVec 16) (s : State) : Result :=
  s.raise .reservedInstruction

/-- SWC3 (R177). -/
def execSwc3 (_base _rt : RegIndex) (_offset : BitVec 16) (s : State) : Result :=
  s.raise .reservedInstruction

/-- CFC0 (R357). -/
def execCfc0 (_rt _rd : RegIndex) (s : State) : Result :=
  controlMoveOfCp0 s

/-- CTC0 (R357). -/
def execCtc0 (_rt _rd : RegIndex) (s : State) : Result :=
  controlMoveOfCp0 s

/-- BC0F (R358). -/
def execBc0f (offset : BitVec 16) (s : State) : Result :=
  copBranch 0#2 false offset s

/-- BC0T (R359). -/
def execBc0t (offset : BitVec 16) (s : State) : Result :=
  copBranch 0#2 true offset s

/-- BC0FL (R360). -/
def execBc0fl (offset : BitVec 16) (s : State) : Result :=
  copBranchLikely 0#2 false offset s

/-- BC0TL (R361). -/
def execBc0tl (offset : BitVec 16) (s : State) : Result :=
  copBranchLikely 0#2 true offset s

/-- BC1F (R358). -/
def execBc1f (offset : BitVec 16) (s : State) : Result :=
  copBranch 1#2 false offset s

/-- BC1T (R359). -/
def execBc1t (offset : BitVec 16) (s : State) : Result :=
  copBranch 1#2 true offset s

/-- BC1FL (R360). -/
def execBc1fl (offset : BitVec 16) (s : State) : Result :=
  copBranchLikely 1#2 false offset s

/-- BC1TL (R361). -/
def execBc1tl (offset : BitVec 16) (s : State) : Result :=
  copBranchLikely 1#2 true offset s

/-- BC2F (R358). -/
def execBc2f (offset : BitVec 16) (s : State) : Result :=
  copBranch 2#2 false offset s

/-- BC2T (R359). -/
def execBc2t (offset : BitVec 16) (s : State) : Result :=
  copBranch 2#2 true offset s

/-- BC2FL (R360). -/
def execBc2fl (offset : BitVec 16) (s : State) : Result :=
  copBranchLikely 2#2 false offset s

/-- BC2TL (R361). -/
def execBc2tl (offset : BitVec 16) (s : State) : Result :=
  copBranchLikely 2#2 true offset s

/-- BC3F (R358). -/
def execBc3f (offset : BitVec 16) (s : State) : Result :=
  copBranch 3#2 false offset s

/-- BC3T (R359). -/
def execBc3t (offset : BitVec 16) (s : State) : Result :=
  copBranch 3#2 true offset s

/-- BC3FL (R360). -/
def execBc3fl (offset : BitVec 16) (s : State) : Result :=
  copBranchLikely 3#2 false offset s

/-- BC3TL (R361). -/
def execBc3tl (offset : BitVec 16) (s : State) : Result :=
  copBranchLikely 3#2 true offset s

end Sys2Proof.Machine
end

