-- ==== Sys2Proof/Machine/Cp0.lean ====
section
/-! DEFINITION. The CP0 instructions (46_cp0.md). -/

namespace Sys2Proof.Machine

/-- The windows after a completed instruction are replaced. -/
def State.withWindows (s : State) (w : Windows) : State := { s with hidden := { s.hidden with windows := w } }

/-- MFC0 (R380). A read of Status must not be followed at once by RFE (R387). -/
def execMfc0 (rt rd : RegIndex) (s : State) : Result :=
  let t := (s.writeReg rt (s.readCp0 rd)).retire
  s.withCop 0#2 (.next (t.withWindows { t.hidden.windows with afterStatusMove := rd = 12#5 }))

/-- Halt or Doze mode (R480). -/
def Cp0.stopped (c : Cp0) : Bool := c.halt || c.doze

/-- Entering Halt or Doze completes the bus cycles: the write buffer is drained (R480). -/
def State.drainIfStopped (s : State) : State := if s.cp0.stopped then s.drain else s

/-- MTC0 (R381, R382). A write that leaves Halt and Doze both set is refused (U11). The next fetch in sequence uses
the ICE of before the write (R535). -/
def execMtc0 (rt rd : RegIndex) (s : State) : Result :=
  let t := s.writeCp0 rd (s.reg rt)
  let u := t.drainIfStopped.advance s.cp0.ice (s.nextPc + 4#32) .none
  s.withCop 0#2 (if t.cp0.halt && t.cp0.doze then .refused .haltAndDoze
    else .next (u.withWindows (openedWindows s.hidden.windows rd s.cp0 t.cp0)))

/-- RFE (R386, R387). The restored mode holds from the next instruction on, so no window of KUc stays open. -/
def execRfe (s : State) : Result :=
  let t := { s with cp0 := s.cp0.popModes }.retire
  s.withCop 0#2
    (if s.hidden.windows.afterStatusMove then .refused .rfeAfterStatusMove
     else if s.cp0.iec then .refused .rfeInterruptsEnabled
     else .next (t.withWindows { t.hidden.windows with ku2 := false }))

/-- DERET (R388, R389): a jump to DEPC; DM is cleared when its delay slot, a NOP, completes. -/
def execDeret (s : State) : Result :=
  if s.inDelaySlot then .refused .branchInDelaySlot
  else s.withCop 0#2
    (if s.inDebug then .next (s.advance s.cp0.ice s.cp0.depc (.deret s.pc)) else .refused .deretOutsideDebug)

/-- The operation of a CACHE instruction on an address (R392 to R396). -/
def cacheOperation (op : BitVec 5) (a : Nat) (s : State) : Result :=
  if op = 0b00000#5 then
    if s.cp0.ice || s.hidden.iceSample then .refused .indexInvalidateEnabled else complete (s.indexInvalidate a)
  else if op = 0b00101#5 then complete (s.indexLruBitClear a)
  else if op = 0b01001#5 then complete (s.indexLockBitClear a)
  else if op = 0b10001#5 then complete (s.hitInvalidate a)
  else .refused .cacheUndefinedOperation

/-- CACHE (R392). It raises Coprocessor Unusable only. -/
def execCache (base : RegIndex) (op : BitVec 5) (offset : BitVec 16) (s : State) : Result :=
  let v := s.effectiveAddress base offset
  let t := segmentMap v
  s.withCop 0#2
    (if s.hidden.windows.afterCp0Write then .refused .accessAfterCp0Write
     else if s.kernelAddressInUserMode v then .refused .cacheKernelAddress
     else if !t.cacheable then .refused .cacheUncachedAddress
     else cacheOperation op (wordAddress t.pAddr) s)

/-- A no-operation of the MMU group, with CP0 usable (R179, R398). -/
def mmuNoOperation (s : State) : Result := s.withCop 0#2 (complete s)

/-- TLBR (R398). -/
def execTlbr (s : State) : Result := mmuNoOperation s

/-- TLBWI (R398). -/
def execTlbwi (s : State) : Result := mmuNoOperation s

/-- TLBWR (R398). -/
def execTlbwr (s : State) : Result := mmuNoOperation s

/-- TLBP (R398). -/
def execTlbp (s : State) : Result := mmuNoOperation s

end Sys2Proof.Machine
end

