-- ==== Sys2Proof/Machine/LoadStore.lean ====
section
/-! DEFINITION. Loads, stores and SYNC (40_load_store.md). -/

namespace Sys2Proof.Machine

/-- The conditions of an Address Error of a data access (R106, R112, R452). -/
def State.addressFault (s : State) (unaligned : Word → Bool) (vAddr : Word) : Bool :=
  unaligned vAddr || s.kernelAddressInUserMode vAddr

/-- In a debug handler a load or store without a TLB exception clears TLF (R473). -/
def State.clearTlf (s : State) : State :=
  { s with cp0 := { s.cp0 with debugReg := { s.cp0.debugReg with tlf := s.cp0.debugReg.tlf && !s.inDebug } } }

/-- The bus error of a data read in a debug handler (R473). -/
def State.setBsf (s : State) : State :=
  { s with cp0 := { s.cp0 with debugReg := { s.cp0.debugReg with bsf := true } } }

/-- A failed load waits to be reported (R462). -/
def State.addLate (s : State) (rt : RegIndex) (single : Bool) : State :=
  { s with hidden := { s.hidden with late := s.hidden.late ++ [{ rt, single, fresh := true }] } }

/-- An uncached load counts as a SYNC for D9. -/
def State.syncStaleIf (s : State) (uncached : Bool) : State := if uncached then s.syncStale else s

/-- The load whose read failed (R461, R462, R473): the destination is any value, the instruction completes, and the
error is reported later, or in a debug handler sets BsF. -/
def State.failedLoad (s : State) (rt : RegIndex) (single uncached : Bool) : State :=
  let s1 := s.writeReg rt (s.free .failedLoad)
  if s.inDebug then s1.setBsf.retire.syncStaleIf uncached
  else (s1.retire.syncStaleIf uncached).addLate rt single

/-- A load (R200): `lanes` are those it reads, and `result` makes the new register from the lane selector, the memory
word and the old register. -/
def load (unaligned : Word → Bool) (selector : Bool → Word → Nat) (lanes : Nat → List Nat)
    (result : Nat → Word → Word → Word) (base rt : RegIndex) (offset : BitVec 16) (s : State) : Result :=
  let v := s.effectiveAddress base offset
  if s.hidden.windows.afterCp0Write then .refused .accessAfterCp0Write
  else if s.addressFault unaligned v then s.raise (.addressLoad v)
  else
    let t := segmentMap v
    let lane := selector s.bigEndianCpu v
    let a := wordAddress t.pAddr
    let bytes := (lanes lane).map (laneAddress s.platform.product.bigEndianMem a)
    match s.clearTlf.dataRead a t.cacheable bytes with
    | .word w uncached s1 => .next ((s1.writeReg rt (result lane w (s.reg rt))).retire.syncStaleIf uncached)
    | .busError single uncached s1 => .next (s1.failedLoad rt single uncached)

/-- A store (R200): `lanes` gives the bytes from the lane and the register. -/
def store (unaligned : Word → Bool) (selector : Bool → Word → Nat) (lanes : Nat → Word → List LaneByte)
    (base rt : RegIndex) (offset : BitVec 16) (s : State) : Result :=
  let v := s.effectiveAddress base offset
  if s.hidden.windows.afterCp0Write then .refused .accessAfterCp0Write
  else if s.addressFault unaligned v then s.raise (.addressStore v)
  else
    let t := segmentMap v
    let stored := lanes (selector s.bigEndianCpu v) (s.reg rt)
    complete (s.clearTlf.dataWrite (wordAddress t.pAddr) t.cacheable stored)

/-- LB (R204). -/
def execLb (base rt : RegIndex) (offset : BitVec 16) (s : State) : Result :=
  load unaligned1 byteSelector byteLanes loadedByteSigned base rt offset s

/-- LBU (R205). -/
def execLbu (base rt : RegIndex) (offset : BitVec 16) (s : State) : Result :=
  load unaligned1 byteSelector byteLanes loadedByteUnsigned base rt offset s

/-- LH (R206). -/
def execLh (base rt : RegIndex) (offset : BitVec 16) (s : State) : Result :=
  load unaligned2 halfSelector halfLanes loadedHalfSigned base rt offset s

/-- LHU (R207). -/
def execLhu (base rt : RegIndex) (offset : BitVec 16) (s : State) : Result :=
  load unaligned2 halfSelector halfLanes loadedHalfUnsigned base rt offset s

/-- LW (R208). -/
def execLw (base rt : RegIndex) (offset : BitVec 16) (s : State) : Result :=
  load unaligned4 byteSelector wordLanes loadedWord base rt offset s

/-- LWL (R209). -/
def execLwl (base rt : RegIndex) (offset : BitVec 16) (s : State) : Result :=
  load unaligned1 byteSelector leftLanes loadedLeft base rt offset s

/-- LWR (R210). -/
def execLwr (base rt : RegIndex) (offset : BitVec 16) (s : State) : Result :=
  load unaligned1 byteSelector rightLanes loadedRight base rt offset s

/-- SB (R211). -/
def execSb (base rt : RegIndex) (offset : BitVec 16) (s : State) : Result :=
  store unaligned1 byteSelector storedByte base rt offset s

/-- SH (R212). -/
def execSh (base rt : RegIndex) (offset : BitVec 16) (s : State) : Result :=
  store unaligned2 halfSelector storedHalf base rt offset s

/-- SW (R213). -/
def execSw (base rt : RegIndex) (offset : BitVec 16) (s : State) : Result :=
  store unaligned4 byteSelector storedWord base rt offset s

/-- SWL (R216). -/
def execSwl (base rt : RegIndex) (offset : BitVec 16) (s : State) : Result :=
  store unaligned1 byteSelector storedLeft base rt offset s

/-- SWR (R217). -/
def execSwr (base rt : RegIndex) (offset : BitVec 16) (s : State) : Result :=
  store unaligned1 byteSelector storedRight base rt offset s

/-- SYNC (R218, R151): every earlier store reaches the bus; no register changes. -/
def execSync (s : State) : Result := .next s.drain.retire.syncStale

end Sys2Proof.Machine
end

