-- ==== Sys2Proof/Machine/MulDiv.lean ====
section
/-! DEFINITION. Multiply, multiply-add, divide and the HI and LO moves (42_muldiv.md). -/

namespace Sys2Proof.Machine

/-- The exact 64-bit products (R271, R272). -/
def productSigned (a b : Word) : BitVec 64 := a.signExtend 64 * b.signExtend 64
def productUnsigned (a b : Word) : BitVec 64 := a.setWidth 64 * b.setWidth 64

/-- `div_busy` (R284). -/
def State.setDivBusy (s : State) (b : Bool) : State := { s with hidden := { s.hidden with divBusy := b } }

/-- `hilo_read_age <- 0` (R284). -/
def State.hiLoRead (s : State) : State := { s with hidden := { s.hidden with hiloReadAge := 0 } }

/-- A 64-bit result goes to HI and LO and its low word to `rd`; a division has been waited for (R271, R285). -/
def State.writeProduct (s : State) (rd : RegIndex) (t : BitVec 64) : State :=
  ((s.writeHiLo t).setDivBusy false).writeReg rd (t.extractLsb' 0 32)

/-- Quotient and remainder, truncated toward zero, the remainder with the dividend's sign (R275). PRESUMED (log entry
9). -/
def quotientSigned (a b : Word) : Word := a.sdiv b
def remainderSigned (a b : Word) : Word := a.srem b

/-- The signed division has no stated result: divisor zero (U3), or the quotient 2^31 (D15). -/
def divideOpen (a b : Word) : Bool := b == 0#32 || (a == 0x80000000#32 && b == 0xFFFFFFFF#32)

/-- A division writes LO and HI and is taken to run (R275, R277). A division too soon after a read of HI or LO is
refused (R283, D14). -/
def divide (s : State) (lo hi : Word) : Result :=
  if s.hidden.hiloReadAge < 2 then .refused .divideAfterHiLoRead
  else complete ({ s with lo := lo, hi := hi }.setDivBusy true)

/-- MULT (R271). -/
def execMult (rs rt rd : RegIndex) (s : State) : Result :=
  complete (s.writeProduct rd (productSigned (s.reg rs) (s.reg rt)))

/-- MULTU (R272). -/
def execMultu (rs rt rd : RegIndex) (s : State) : Result :=
  complete (s.writeProduct rd (productUnsigned (s.reg rs) (s.reg rt)))

/-- MADD (R273). -/
def execMadd (rs rt rd : RegIndex) (s : State) : Result :=
  .next (s.writeProduct rd (s.hiLo + productSigned (s.reg rs) (s.reg rt))).retire.hiLoRead

/-- MADDU (R274). -/
def execMaddu (rs rt rd : RegIndex) (s : State) : Result :=
  .next (s.writeProduct rd (s.hiLo + productUnsigned (s.reg rs) (s.reg rt))).retire.hiLoRead

/-- DIV (R275). -/
def execDiv (rs rt : RegIndex) (s : State) : Result :=
  let a := s.reg rs
  let b := s.reg rt
  if divideOpen a b then divide s (s.free .divideLo) (s.free .divideHi)
  else divide s (quotientSigned a b) (remainderSigned a b)

/-- DIVU (R277). -/
def execDivu (rs rt : RegIndex) (s : State) : Result :=
  let a := s.reg rs
  let b := s.reg rt
  if b = 0#32 then divide s (s.free .divideLo) (s.free .divideHi)
  else divide s (a / b) (a % b)

/-- MFHI (R278). -/
def execMfhi (rd : RegIndex) (s : State) : Result :=
  .next ((s.setDivBusy false).writeReg rd s.hi).retire.hiLoRead

/-- MFLO (R279). -/
def execMflo (rd : RegIndex) (s : State) : Result :=
  .next ((s.setDivBusy false).writeReg rd s.lo).retire.hiLoRead

/-- MTHI (R280, R281). -/
def execMthi (rs : RegIndex) (s : State) : Result :=
  let lo := if s.hidden.divBusy then s.free .abandonedLo else s.lo
  complete ({ s with hi := s.reg rs, lo := lo }.setDivBusy false)

/-- MTLO (R282, R281). -/
def execMtlo (rs : RegIndex) (s : State) : Result :=
  let hi := if s.hidden.divBusy then s.free .abandonedHi else s.hi
  complete ({ s with lo := s.reg rs, hi := hi }.setDivBusy false)

end Sys2Proof.Machine
end

