-- ==== Sys2Proof/Machine/Special.lean ====
section
/-! DEFINITION. The software traps (44_special.md). The code field is ignored by the hardware (R340). -/

namespace Sys2Proof.Machine

/-- SYSCALL (R341). -/
def execSyscall (_code : BitVec 20) (s : State) : Result := s.raise .syscall

/-- BREAK (R342). -/
def execBrk (_code : BitVec 20) (s : State) : Result := s.raise .breakpoint

/-- SDBBP (R343). -/
def execSdbbp (_code : BitVec 20) (s : State) : Result := s.raiseDebugBreakpoint

end Sys2Proof.Machine
end

