-- ==== Sys2Proof/Machine/Dispatch.lean ====
section
/-! DEFINITION. The dispatcher: one arm per instruction, each a call of its meaning. -/

namespace Sys2Proof.Machine

/-- The meaning of an instruction. -/
def exec (i : Instr) (s : State) : Host.Outcome State Fault Refusal :=
  match i with
  | .sll rt rd sa => Sys2Proof.Machine.execSll rt rd sa s
  | .srl rt rd sa => Sys2Proof.Machine.execSrl rt rd sa s
  | .sra rt rd sa => Sys2Proof.Machine.execSra rt rd sa s
  | .sllv rs rt rd => Sys2Proof.Machine.execSllv rs rt rd s
  | .srlv rs rt rd => Sys2Proof.Machine.execSrlv rs rt rd s
  | .srav rs rt rd => Sys2Proof.Machine.execSrav rs rt rd s
  | .jr rs => Sys2Proof.Machine.execJr rs s
  | .jalr rs rd => Sys2Proof.Machine.execJalr rs rd s
  | .syscall code => Sys2Proof.Machine.execSyscall code s
  | .brk code => Sys2Proof.Machine.execBrk code s
  | .sdbbp code => Sys2Proof.Machine.execSdbbp code s
  | .sync => Sys2Proof.Machine.execSync s
  | .mfhi rd => Sys2Proof.Machine.execMfhi rd s
  | .mthi rs => Sys2Proof.Machine.execMthi rs s
  | .mflo rd => Sys2Proof.Machine.execMflo rd s
  | .mtlo rs => Sys2Proof.Machine.execMtlo rs s
  | .mult rs rt rd => Sys2Proof.Machine.execMult rs rt rd s
  | .multu rs rt rd => Sys2Proof.Machine.execMultu rs rt rd s
  | .div rs rt => Sys2Proof.Machine.execDiv rs rt s
  | .divu rs rt => Sys2Proof.Machine.execDivu rs rt s
  | .add rs rt rd => Sys2Proof.Machine.execAdd rs rt rd s
  | .addu rs rt rd => Sys2Proof.Machine.execAddu rs rt rd s
  | .sub rs rt rd => Sys2Proof.Machine.execSub rs rt rd s
  | .subu rs rt rd => Sys2Proof.Machine.execSubu rs rt rd s
  | .and rs rt rd => Sys2Proof.Machine.execAnd rs rt rd s
  | .or rs rt rd => Sys2Proof.Machine.execOr rs rt rd s
  | .xor rs rt rd => Sys2Proof.Machine.execXor rs rt rd s
  | .nor rs rt rd => Sys2Proof.Machine.execNor rs rt rd s
  | .slt rs rt rd => Sys2Proof.Machine.execSlt rs rt rd s
  | .sltu rs rt rd => Sys2Proof.Machine.execSltu rs rt rd s
  | .bltz rs offset => Sys2Proof.Machine.execBltz rs offset s
  | .bgez rs offset => Sys2Proof.Machine.execBgez rs offset s
  | .bltzl rs offset => Sys2Proof.Machine.execBltzl rs offset s
  | .bgezl rs offset => Sys2Proof.Machine.execBgezl rs offset s
  | .bltzal rs offset => Sys2Proof.Machine.execBltzal rs offset s
  | .bgezal rs offset => Sys2Proof.Machine.execBgezal rs offset s
  | .bltzall rs offset => Sys2Proof.Machine.execBltzall rs offset s
  | .bgezall rs offset => Sys2Proof.Machine.execBgezall rs offset s
  | .j target => Sys2Proof.Machine.execJ target s
  | .jal target => Sys2Proof.Machine.execJal target s
  | .beq rs rt offset => Sys2Proof.Machine.execBeq rs rt offset s
  | .bne rs rt offset => Sys2Proof.Machine.execBne rs rt offset s
  | .blez rs offset => Sys2Proof.Machine.execBlez rs offset s
  | .bgtz rs offset => Sys2Proof.Machine.execBgtz rs offset s
  | .addi rs rt immediate => Sys2Proof.Machine.execAddi rs rt immediate s
  | .addiu rs rt immediate => Sys2Proof.Machine.execAddiu rs rt immediate s
  | .slti rs rt immediate => Sys2Proof.Machine.execSlti rs rt immediate s
  | .sltiu rs rt immediate => Sys2Proof.Machine.execSltiu rs rt immediate s
  | .andi rs rt immediate => Sys2Proof.Machine.execAndi rs rt immediate s
  | .ori rs rt immediate => Sys2Proof.Machine.execOri rs rt immediate s
  | .xori rs rt immediate => Sys2Proof.Machine.execXori rs rt immediate s
  | .lui rt immediate => Sys2Proof.Machine.execLui rt immediate s
  | .mfc0 rt rd => Sys2Proof.Machine.execMfc0 rt rd s
  | .mfc1 rt rd => Sys2Proof.Machine.execMfc1 rt rd s
  | .mfc2 rt rd => Sys2Proof.Machine.execMfc2 rt rd s
  | .mfc3 rt rd => Sys2Proof.Machine.execMfc3 rt rd s
  | .cfc0 rt rd => Sys2Proof.Machine.execCfc0 rt rd s
  | .cfc1 rt rd => Sys2Proof.Machine.execCfc1 rt rd s
  | .cfc2 rt rd => Sys2Proof.Machine.execCfc2 rt rd s
  | .cfc3 rt rd => Sys2Proof.Machine.execCfc3 rt rd s
  | .mtc0 rt rd => Sys2Proof.Machine.execMtc0 rt rd s
  | .mtc1 rt rd => Sys2Proof.Machine.execMtc1 rt rd s
  | .mtc2 rt rd => Sys2Proof.Machine.execMtc2 rt rd s
  | .mtc3 rt rd => Sys2Proof.Machine.execMtc3 rt rd s
  | .ctc0 rt rd => Sys2Proof.Machine.execCtc0 rt rd s
  | .ctc1 rt rd => Sys2Proof.Machine.execCtc1 rt rd s
  | .ctc2 rt rd => Sys2Proof.Machine.execCtc2 rt rd s
  | .ctc3 rt rd => Sys2Proof.Machine.execCtc3 rt rd s
  | .bc0f offset => Sys2Proof.Machine.execBc0f offset s
  | .bc1f offset => Sys2Proof.Machine.execBc1f offset s
  | .bc2f offset => Sys2Proof.Machine.execBc2f offset s
  | .bc3f offset => Sys2Proof.Machine.execBc3f offset s
  | .bc0t offset => Sys2Proof.Machine.execBc0t offset s
  | .bc1t offset => Sys2Proof.Machine.execBc1t offset s
  | .bc2t offset => Sys2Proof.Machine.execBc2t offset s
  | .bc3t offset => Sys2Proof.Machine.execBc3t offset s
  | .bc0fl offset => Sys2Proof.Machine.execBc0fl offset s
  | .bc1fl offset => Sys2Proof.Machine.execBc1fl offset s
  | .bc2fl offset => Sys2Proof.Machine.execBc2fl offset s
  | .bc3fl offset => Sys2Proof.Machine.execBc3fl offset s
  | .bc0tl offset => Sys2Proof.Machine.execBc0tl offset s
  | .bc1tl offset => Sys2Proof.Machine.execBc1tl offset s
  | .bc2tl offset => Sys2Proof.Machine.execBc2tl offset s
  | .bc3tl offset => Sys2Proof.Machine.execBc3tl offset s
  | .cop1 cofun => Sys2Proof.Machine.execCop1 cofun s
  | .cop2 cofun => Sys2Proof.Machine.execCop2 cofun s
  | .cop3 cofun => Sys2Proof.Machine.execCop3 cofun s
  | .tlbr => Sys2Proof.Machine.execTlbr s
  | .tlbwi => Sys2Proof.Machine.execTlbwi s
  | .tlbwr => Sys2Proof.Machine.execTlbwr s
  | .tlbp => Sys2Proof.Machine.execTlbp s
  | .rfe => Sys2Proof.Machine.execRfe s
  | .deret => Sys2Proof.Machine.execDeret s
  | .beql rs rt offset => Sys2Proof.Machine.execBeql rs rt offset s
  | .bnel rs rt offset => Sys2Proof.Machine.execBnel rs rt offset s
  | .blezl rs offset => Sys2Proof.Machine.execBlezl rs offset s
  | .bgtzl rs offset => Sys2Proof.Machine.execBgtzl rs offset s
  | .madd rs rt rd => Sys2Proof.Machine.execMadd rs rt rd s
  | .maddu rs rt rd => Sys2Proof.Machine.execMaddu rs rt rd s
  | .lb base rt offset => Sys2Proof.Machine.execLb base rt offset s
  | .lh base rt offset => Sys2Proof.Machine.execLh base rt offset s
  | .lwl base rt offset => Sys2Proof.Machine.execLwl base rt offset s
  | .lw base rt offset => Sys2Proof.Machine.execLw base rt offset s
  | .lbu base rt offset => Sys2Proof.Machine.execLbu base rt offset s
  | .lhu base rt offset => Sys2Proof.Machine.execLhu base rt offset s
  | .lwr base rt offset => Sys2Proof.Machine.execLwr base rt offset s
  | .sb base rt offset => Sys2Proof.Machine.execSb base rt offset s
  | .sh base rt offset => Sys2Proof.Machine.execSh base rt offset s
  | .swl base rt offset => Sys2Proof.Machine.execSwl base rt offset s
  | .sw base rt offset => Sys2Proof.Machine.execSw base rt offset s
  | .swr base rt offset => Sys2Proof.Machine.execSwr base rt offset s
  | .cache base op offset => Sys2Proof.Machine.execCache base op offset s
  | .lwc1 base rt offset => Sys2Proof.Machine.execLwc1 base rt offset s
  | .lwc2 base rt offset => Sys2Proof.Machine.execLwc2 base rt offset s
  | .lwc3 base rt offset => Sys2Proof.Machine.execLwc3 base rt offset s
  | .swc1 base rt offset => Sys2Proof.Machine.execSwc1 base rt offset s
  | .swc2 base rt offset => Sys2Proof.Machine.execSwc2 base rt offset s
  | .swc3 base rt offset => Sys2Proof.Machine.execSwc3 base rt offset s

end Sys2Proof.Machine
end

