-- ==== Sys2Proof/Machine/Platform.lean ====
section
/-! DEFINITION. What the world outside does to the core: inputs, an external bus master, and Reset (R13, R142, R482,
R500; 92_eei_decisions.md section 4). -/

namespace Sys2Proof.Machine

/-- Halt and Doze end; both bits are cleared even if Config is locked (R482, R67). -/
def State.wake (s : State) : State := { s with cp0 := { s.cp0 with config := wakeConfig s.cp0.config } }

/-- A falling edge of NMI: latched, and it ends Halt and Doze (R465, R482). -/
def State.nmiEdge (s : State) : State :=
  let t := if s.cp0.halt || s.cp0.doze then s.wake else s
  { t with hidden := { t.hidden with nmiPending := true } }

/-- An external master writes a byte of RAM (R152). The data cache is snooped, but not in Halt (R142, R481); the
instruction cache is not, and a fetch may still see the old word (R147).
DESIGN CHOICE (log entry 57): D9 speaks of the core's own stores; a word that an external master writes enters the stale
set as if it had been stored from the block of `pc`, but it waits for no SYNC of its own, because it went through no
write buffer. A store of the core to that word that has not been followed by a SYNC still waits for one. -/
def State.externalWrite (s : State) (a : Nat) (b : Byte) : State :=
  let t := { s with memory := { s.memory with bytes := s.platform.writeByte s.memory.bytes (a, b) } }
  let u := if s.cp0.halt then t else t.snoop (a / 4 * 4)
  u.addStale (a / 4 * 4) (s.pc.toNat / 16) true

/-- The bits of Status and Cause that are undefined after Reset (R40, R50, R500). -/
def statusUndefined : Word := 0xF200FF3C#32
def causeUndefined : Word := 0xB000037C#32

/-- A register file after Reset: any values (U21). -/
def freeFile (item : Nat → ResetItem) (draw : Nat) : Vector Word 32 :=
  Vector.ofFn fun i => Config.freeWord (.reset (item i.val)) draw

def freeCoprocessor (z draw : Nat) : Coprocessor :=
  { gpr := freeFile (.copGpr z) draw, ctl := freeFile (.copCtl z) draw }

/-- Debug after Reset: DM and SSt are 0, the rest any value (R81, R500). -/
def freeDebug (draw : Nat) : DebugRegister :=
  let v := Config.freeWord (.reset .debug) draw
  { dbd := v.getLsbD 0, dm := false, nis := v.getLsbD 1, oes := v.getLsbD 2, tlf := v.getLsbD 3,
    bsf := v.getLsbD 4, sst := false, dbp := v.getLsbD 5, dss := v.getLsbD 6 }

/-- CP0 after Reset (R500, D3). -/
def resetCp0 (p : Product) (draw : Nat) : Cp0 :=
  { status := resetStatus ||| (Config.freeWord (.reset .status) draw &&& statusUndefined)
    cause := Config.freeWord (.reset .cause) draw &&& causeUndefined
    epc := Config.freeWord (.reset .epc) draw
    badVAddr := Config.freeWord (.reset .badVAddr) draw
    config := resetConfig p
    cache := Config.freeWord (.reset .cache) draw &&& cacheMask
    debugReg := freeDebug draw
    depc := Config.freeWord (.reset .depc) draw }

/-- Hidden state after Reset (D6). DESIGN CHOICE (log entry 58): neither R500 nor D6 lists the CP0 write windows (R384,
R387, R524 to R529); an MTC0 right before the Reset leaves none of them open. -/
def resetHidden (coc : BitVec 4) : Hidden :=
  { divBusy := false
    hiloReadAge := 2
    windows := { afterCp0Write := false, afterStatusMove := false, cu1 := 0#4, cu2 := 0#4, ku1 := false,
                 ku2 := false, bev1 := false, irq1 := none }
    ssSuppressed := false
    iceSample := true
    nmiPending := false
    cocPrev := coc
    late := [] }

/-- Reset (R500): what is undefined takes free values; memory is kept, buffered writes are lost (R501, D6), all lines
of both caches become invalid, and those of the data cache unlocked. -/
def State.resetMove (s : State) (bigEndian : Bool) : State :=
  let p := { s.platform.product with bigEndianMem := bigEndian }
  { gpr := (freeFile .gpr s.draws).set 0 0#32
    pc := resetVector
    nextPc := resetVector + 4#32
    slot := .none
    hi := Config.freeWord (.reset .hi) s.draws
    lo := Config.freeWord (.reset .lo) s.draws
    cp0 := resetCp0 p s.draws
    hidden := resetHidden s.platform.coc
    memory :=
      { bytes := s.memory.bytes, buffer := [], dcache := [], lru := Config.freeLru s.draws, icache := [], stale := [],
        devices := s.memory.devices }
    platform := { s.platform with
      product := p
      cop1 := freeCoprocessor 1 s.draws
      cop2 := freeCoprocessor 2 s.draws
      cop3 := freeCoprocessor 3 s.draws }
    draws := s.draws + 1 }

/-- A move of the platform; `core` is no move of it. -/
def State.platformMove (s : State) : PlatformMove → Result
  | .core => .next s
  | .setInterruptLines lines => .next { s with platform := { s.platform with intLines := lines } }
  | .nmiEdge => .next s.nmiEdge
  | .setConditions coc => .next { s with platform := { s.platform with coc := coc } }
  | .setBusErrors words => .next { s with platform := { s.platform with busErrors := words } }
  | .busWrite => .next s.drainOldest
  | .externalWrite a b => if a < 2 ^ 32 then .next (s.externalWrite a b) else .fault .outsideAddressSpace
  | .reset bigEndian => .next (s.resetMove bigEndian)

end Sys2Proof.Machine
end

