-- ==== Sys2Proof/Machine/Priority.lean ====
section
/-! DEFINITION. What a boundary has to know of the instruction about to execute: the registers it uses, for a late
bus error (R462), and whether it raises an exception itself, for an interrupt (R445). -/

namespace Sys2Proof.Machine

/-- The general registers an instruction reads or writes (R92, R462). -/
def Instr.registers : Instr → List RegIndex
  | .sll rt rd _ => [rt, rd]
  | .srl rt rd _ => [rt, rd]
  | .sra rt rd _ => [rt, rd]
  | .sllv rs rt rd => [rs, rt, rd]
  | .srlv rs rt rd => [rs, rt, rd]
  | .srav rs rt rd => [rs, rt, rd]
  | .jr rs => [rs]
  | .jalr rs rd => [rs, rd]
  | .syscall _ => []
  | .brk _ => []
  | .sdbbp _ => []
  | .sync => []
  | .mfhi rd => [rd]
  | .mthi rs => [rs]
  | .mflo rd => [rd]
  | .mtlo rs => [rs]
  | .mult rs rt rd => [rs, rt, rd]
  | .multu rs rt rd => [rs, rt, rd]
  | .div rs rt => [rs, rt]
  | .divu rs rt => [rs, rt]
  | .add rs rt rd => [rs, rt, rd]
  | .addu rs rt rd => [rs, rt, rd]
  | .sub rs rt rd => [rs, rt, rd]
  | .subu rs rt rd => [rs, rt, rd]
  | .and rs rt rd => [rs, rt, rd]
  | .or rs rt rd => [rs, rt, rd]
  | .xor rs rt rd => [rs, rt, rd]
  | .nor rs rt rd => [rs, rt, rd]
  | .slt rs rt rd => [rs, rt, rd]
  | .sltu rs rt rd => [rs, rt, rd]
  | .bltz rs _ => [rs]
  | .bgez rs _ => [rs]
  | .bltzl rs _ => [rs]
  | .bgezl rs _ => [rs]
  | .bltzal rs _ => [rs, linkRegister]
  | .bgezal rs _ => [rs, linkRegister]
  | .bltzall rs _ => [rs, linkRegister]
  | .bgezall rs _ => [rs, linkRegister]
  | .j _ => []
  | .jal _ => [linkRegister]
  | .beq rs rt _ => [rs, rt]
  | .bne rs rt _ => [rs, rt]
  | .blez rs _ => [rs]
  | .bgtz rs _ => [rs]
  | .addi rs rt _ => [rs, rt]
  | .addiu rs rt _ => [rs, rt]
  | .slti rs rt _ => [rs, rt]
  | .sltiu rs rt _ => [rs, rt]
  | .andi rs rt _ => [rs, rt]
  | .ori rs rt _ => [rs, rt]
  | .xori rs rt _ => [rs, rt]
  | .lui rt _ => [rt]
  | .mfc0 rt _ => [rt]
  | .mfc1 rt _ => [rt]
  | .mfc2 rt _ => [rt]
  | .mfc3 rt _ => [rt]
  | .cfc0 rt _ => [rt]
  | .cfc1 rt _ => [rt]
  | .cfc2 rt _ => [rt]
  | .cfc3 rt _ => [rt]
  | .mtc0 rt _ => [rt]
  | .mtc1 rt _ => [rt]
  | .mtc2 rt _ => [rt]
  | .mtc3 rt _ => [rt]
  | .ctc0 rt _ => [rt]
  | .ctc1 rt _ => [rt]
  | .ctc2 rt _ => [rt]
  | .ctc3 rt _ => [rt]
  | .bc0f _ => []
  | .bc1f _ => []
  | .bc2f _ => []
  | .bc3f _ => []
  | .bc0t _ => []
  | .bc1t _ => []
  | .bc2t _ => []
  | .bc3t _ => []
  | .bc0fl _ => []
  | .bc1fl _ => []
  | .bc2fl _ => []
  | .bc3fl _ => []
  | .bc0tl _ => []
  | .bc1tl _ => []
  | .bc2tl _ => []
  | .bc3tl _ => []
  | .cop1 _ => []
  | .cop2 _ => []
  | .cop3 _ => []
  | .tlbr => []
  | .tlbwi => []
  | .tlbwr => []
  | .tlbp => []
  | .rfe => []
  | .deret => []
  | .beql rs rt _ => [rs, rt]
  | .bnel rs rt _ => [rs, rt]
  | .blezl rs _ => [rs]
  | .bgtzl rs _ => [rs]
  | .madd rs rt rd => [rs, rt, rd]
  | .maddu rs rt rd => [rs, rt, rd]
  | .lb base rt _ => [base, rt]
  | .lh base rt _ => [base, rt]
  | .lwl base rt _ => [base, rt]
  | .lw base rt _ => [base, rt]
  | .lbu base rt _ => [base, rt]
  | .lhu base rt _ => [base, rt]
  | .lwr base rt _ => [base, rt]
  | .sb base rt _ => [base, rt]
  | .sh base rt _ => [base, rt]
  | .swl base rt _ => [base, rt]
  | .sw base rt _ => [base, rt]
  | .swr base rt _ => [base, rt]
  | .cache base _ _ => [base]
  | .lwc1 _ _ _ => []
  | .lwc2 _ _ _ => []
  | .lwc3 _ _ _ => []
  | .swc1 _ _ _ => []
  | .swc2 _ _ _ => []
  | .swc3 _ _ _ => []

/-- Whether an instruction raises an exception of its own at this state, with DM = 0: then an interrupt is not taken
at it (R445). SDBBP is not in the table of R445; R477 rules.
DESIGN CHOICE (log entry 56): the exception counts also where a refusal comes before it (a misaligned access right after
an MTC0 to Status, Config or Cache; BCz or DERET of an unusable coprocessor in a delay slot), so an enabled interrupt is
held back there and the step is refused; R445 does not say which of the two is taken. -/
def Instr.raises (s : State) : Instr → Bool
  | .sll _ _ _ => false
  | .srl _ _ _ => false
  | .sra _ _ _ => false
  | .sllv _ _ _ => false
  | .srlv _ _ _ => false
  | .srav _ _ _ => false
  | .jr _ => false
  | .jalr _ _ => false
  | .syscall _ => true
  | .brk _ => true
  | .sdbbp _ => false
  | .sync => false
  | .mfhi _ => false
  | .mthi _ => false
  | .mflo _ => false
  | .mtlo _ => false
  | .mult _ _ _ => false
  | .multu _ _ _ => false
  | .div _ _ => false
  | .divu _ _ => false
  | .add rs rt _ => overflowAdd (s.reg rs) (s.reg rt)
  | .addu _ _ _ => false
  | .sub rs rt _ => overflowSub (s.reg rs) (s.reg rt)
  | .subu _ _ _ => false
  | .and _ _ _ => false
  | .or _ _ _ => false
  | .xor _ _ _ => false
  | .nor _ _ _ => false
  | .slt _ _ _ => false
  | .sltu _ _ _ => false
  | .bltz _ _ => false
  | .bgez _ _ => false
  | .bltzl _ _ => false
  | .bgezl _ _ => false
  | .bltzal _ _ => false
  | .bgezal _ _ => false
  | .bltzall _ _ => false
  | .bgezall _ _ => false
  | .j _ => false
  | .jal _ => false
  | .beq _ _ _ => false
  | .bne _ _ _ => false
  | .blez _ _ => false
  | .bgtz _ _ => false
  | .addi rs _ immediate => overflowAdd (s.reg rs) (sext16 immediate)
  | .addiu _ _ _ => false
  | .slti _ _ _ => false
  | .sltiu _ _ _ => false
  | .andi _ _ _ => false
  | .ori _ _ _ => false
  | .xori _ _ _ => false
  | .lui _ _ => false
  | .mfc0 _ _ => !s.usable 0#2
  | .mfc1 _ _ => !s.usable 1#2
  | .mfc2 _ _ => !s.usable 2#2
  | .mfc3 _ _ => !s.usable 3#2
  | .cfc0 _ _ => !s.usable 0#2
  | .cfc1 _ _ => !s.usable 1#2
  | .cfc2 _ _ => !s.usable 2#2
  | .cfc3 _ _ => !s.usable 3#2
  | .mtc0 _ _ => !s.usable 0#2
  | .mtc1 _ _ => !s.usable 1#2
  | .mtc2 _ _ => !s.usable 2#2
  | .mtc3 _ _ => !s.usable 3#2
  | .ctc0 _ _ => !s.usable 0#2
  | .ctc1 _ _ => !s.usable 1#2
  | .ctc2 _ _ => !s.usable 2#2
  | .ctc3 _ _ => !s.usable 3#2
  | .bc0f _ => !s.usable 0#2
  | .bc1f _ => !s.usable 1#2
  | .bc2f _ => !s.usable 2#2
  | .bc3f _ => !s.usable 3#2
  | .bc0t _ => !s.usable 0#2
  | .bc1t _ => !s.usable 1#2
  | .bc2t _ => !s.usable 2#2
  | .bc3t _ => !s.usable 3#2
  | .bc0fl _ => !s.usable 0#2
  | .bc1fl _ => !s.usable 1#2
  | .bc2fl _ => !s.usable 2#2
  | .bc3fl _ => !s.usable 3#2
  | .bc0tl _ => !s.usable 0#2
  | .bc1tl _ => !s.usable 1#2
  | .bc2tl _ => !s.usable 2#2
  | .bc3tl _ => !s.usable 3#2
  | .cop1 _ => !s.usable 1#2
  | .cop2 _ => !s.usable 2#2
  | .cop3 _ => !s.usable 3#2
  | .tlbr => !s.usable 0#2
  | .tlbwi => !s.usable 0#2
  | .tlbwr => !s.usable 0#2
  | .tlbp => !s.usable 0#2
  | .rfe => !s.usable 0#2
  | .deret => !s.usable 0#2
  | .beql _ _ _ => false
  | .bnel _ _ _ => false
  | .blezl _ _ => false
  | .bgtzl _ _ => false
  | .madd _ _ _ => false
  | .maddu _ _ _ => false
  | .lb base _ offset => s.addressFault unaligned1 (s.effectiveAddress base offset)
  | .lh base _ offset => s.addressFault unaligned2 (s.effectiveAddress base offset)
  | .lwl base _ offset => s.addressFault unaligned1 (s.effectiveAddress base offset)
  | .lw base _ offset => s.addressFault unaligned4 (s.effectiveAddress base offset)
  | .lbu base _ offset => s.addressFault unaligned1 (s.effectiveAddress base offset)
  | .lhu base _ offset => s.addressFault unaligned2 (s.effectiveAddress base offset)
  | .lwr base _ offset => s.addressFault unaligned1 (s.effectiveAddress base offset)
  | .sb base _ offset => s.addressFault unaligned1 (s.effectiveAddress base offset)
  | .sh base _ offset => s.addressFault unaligned2 (s.effectiveAddress base offset)
  | .swl base _ offset => s.addressFault unaligned1 (s.effectiveAddress base offset)
  | .sw base _ offset => s.addressFault unaligned4 (s.effectiveAddress base offset)
  | .swr base _ offset => s.addressFault unaligned1 (s.effectiveAddress base offset)
  | .cache _ _ _ => !s.usable 0#2
  | .lwc1 _ _ _ => true
  | .lwc2 _ _ _ => true
  | .lwc3 _ _ _ => true
  | .swc1 _ _ _ => true
  | .swc2 _ _ _ => true
  | .swc3 _ _ _ => true

/-- The same for any decoded word (R177, R179, R180). -/
def Decoded.raises (s : State) : Decoded → Bool
  | .instr i => Instr.raises s i
  | .reserved => true
  | .reservedCp0 => true
  | .mmuNop => !s.usable 0#2
  | .zeroField => false
  | .copZeroField z => !s.usable z
  | .invalid => false

/-- The decoded word is a SYNC. -/
def Decoded.isSync : Decoded → Bool
  | .instr .sync => true
  | _ => false

/-- The decoded word is an SDBBP. -/
def Decoded.isSdbbp : Decoded → Bool
  | .instr (.sdbbp _) => true
  | _ => false

/-- The decoded word reads or writes a register, r0 apart (R462). -/
def Decoded.uses (d : Decoded) (r : RegIndex) : Bool :=
  r != 0#5 &&
    (match d.toInstr? with
     | some i => (Instr.registers i).contains r
     | none => false)

end Sys2Proof.Machine
end

