-- ==== Sys2Proof/Machine/Boundary.lean ====
section
/-! DEFINITION. One step of the core at an instruction boundary: which event is taken (R445, R450, R462, R465, R474,
R477), else the fetched instruction. -/

namespace Sys2Proof.Machine

/-- The meaning of any decoded word (R177 to R180). -/
def runDecoded (d : Decoded) (s : State) : Result :=
  match d with
  | .instr i => exec i s
  | .reserved => s.raise .reservedInstruction
  | .reservedCp0 => s.withCop 0#2 (s.raise .reservedInstruction)
  | .mmuNop => mmuNoOperation s
  | .zeroField => .refused .nonZeroField
  | .copZeroField z => s.withCop z (.refused .nonZeroField)
  | .invalid => .refused .invalidEncoding

/-- The fetched instruction executes. The delay slot of DERET must hold the NOP word (R389). -/
def runFetched (s : State) (f : FetchResult) : Result :=
  match f with
  | .word w =>
    if s.slot.isDeret && w != 0#32 then .refused .deretSlotNotNop else runDecoded (decode w) s.fetched
  | .addressError => s.raise (.addressLoad s.pc)
  | .busError => s.raise .busErrorFetch
  | .stale => .refused .staleFetch

/-- A property of the word about to execute, false when it could not be fetched. -/
def FetchResult.holds (f : FetchResult) (p : Decoded → Bool) : Bool :=
  match f with
  | .word w => p (decode w)
  | _ => false

/-! Late bus errors (R462). -/

/-- The instruction about to execute waits for the load: it is a SYNC, or uses the load's destination. -/
def LateError.waitedFor (e : LateError) (f : FetchResult) : Bool := f.holds fun d => Decoded.isSync d || Decoded.uses d e.rt

/-- A failed load is reported at this boundary: at the latest where an instruction waits for it, and possibly
earlier. -/
def State.lateDue (s : State) (f : FetchResult) : Bool :=
  !s.hidden.late.isEmpty && (s.hidden.late.any (fun e => e.waitedFor f) || Config.race .lateBusError s.draws)

/-- R462 guarantees EPC for the oldest failed load: the load was the previous instruction, and a SYNC follows, or a
use of the destination of a single access. -/
def State.lateExact (s : State) (f : FetchResult) : Bool :=
  match s.hidden.late with
  | [] => false
  | e :: _ => e.fresh && f.holds fun d => Decoded.isSync d || (e.single && Decoded.uses d e.rt)

/-- The oldest failed load is no longer pending. -/
def State.popLate (s : State) : State := { s with hidden := { s.hidden with late := s.hidden.late.tail } }

/-! Events. -/

/-- An event at a boundary. -/
inductive Event where
  | busErrorFetch
  | busErrorData (exact : Bool)
  | nmi
  | addressFetch
  | interrupt
  deriving DecidableEq, Repr

/-- `dss_due` (R474). -/
def State.singleStepDue (s : State) : Bool :=
  s.cp0.debugReg.sst && !s.inDebug && s.slot.isNone && !s.hidden.ssSuppressed

/-- The event that is taken, with DM = 0, by rank (R445). An interrupt is not taken at an instruction that raises an
exception itself; a Single Step keeps that instruction from executing (R477). -/
def State.event (s : State) (f : FetchResult) : Option Event :=
  if f = .busError then some .busErrorFetch
  else if s.lateDue f then some (.busErrorData (s.lateExact f))
  else if s.hidden.nmiPending then some .nmi
  else if f = .addressError then some .addressFetch
  else if s.interruptTaken && (s.singleStepDue || !f.holds (Decoded.raises s)) then some .interrupt
  else none

/-- The register updates of an event's entry, without the pc (R477). -/
def State.recordEvent (s : State) : Event → State
  | .busErrorFetch => s.record .busErrorFetch
  | .busErrorData exact => s.popLate.record (.busErrorData exact)
  | .nmi => s.recordNmi
  | .addressFetch => s.record (.addressLoad s.pc)
  | .interrupt => s.record .interrupt

/-- The entry to an event. The fetch that met a bus error has drained the write buffer (R150, D10). -/
def State.enterEvent (s : State) : Event → State
  | .busErrorFetch => s.drain.boundaryEntry .busErrorFetch
  | .busErrorData exact => s.popLate.boundaryEntry (.busErrorData exact)
  | .nmi => s.nmiEntry
  | .addressFetch => s.boundaryEntry (.addressLoad s.pc)
  | .interrupt => s.boundaryEntry .interrupt

/-- DEPC after a debug exception that meets an event: for an interrupt, an NmI or a Data Bus Error the vector of that
event (D29); for a fetch Address Error the address of the victim, or of its branch (R477). A fetch Bus Error is taken
alone. DEDUCED (log entry 32): the general sentence of R477 on DEPC is not applied to the events that D29 rules on. -/
def State.debugReturn (s : State) (e : Event) : Word :=
  match e with
  | .addressFetch | .busErrorFetch => s.resumeAddress
  | .nmi | .interrupt | .busErrorData _ => (s.enterEvent e).pc

/-- DEPC takes a value. -/
def State.setDepc (s : State) (v : Word) : State := { s with cp0 := { s.cp0 with depc := v } }

/-- A debug exception at the same boundary as an event (R477): the event's registers, then the debug entry with NIS for
an NmI and OES for any other. DESIGN CHOICE (log entry 62): an SDBBP that meets an event (`singleStep` false) counts as an
instruction that raised an exception (R343), for the CP0 windows and the sample of the conditions. -/
def State.debugWithEvent (s : State) (singleStep : Bool) : Option Event → State
  | none => s.debugEntry singleStep false false
  | some e => ((s.recordEvent e).debugEntry singleStep (e = .nmi) (e ≠ .nmi)).setDepc (s.debugReturn e)

/-- The boundary with DM = 0. A fetch bus error is taken alone (D29). DESIGN CHOICE (log entry 62): where SDBBP meets
another event, its fetch drains no buffer, fills no line and is no access to a device; an SDBBP that meets none has the
effects of its fetch (`State.fetched`). -/
def State.normalBoundary (s : State) : Result :=
  let f := s.fetch
  let e := s.event f
  if e = some .busErrorFetch then .next (s.enterEvent .busErrorFetch)
  else if s.singleStepDue then .next (s.debugWithEvent true e)
  else
    match e with
    | none => runFetched s f
    | some ev => if f.holds Decoded.isSdbbp then .next (s.debugWithEvent false e) else .next (s.enterEvent ev)

/-- The boundary with DM = 1: interrupts and NmI are held (R471); a late bus error sets BsF (R473). -/
def State.debugBoundary (s : State) : Result :=
  let f := s.fetch
  if s.lateDue f then
    let t := s.popLate
    .next { t with cp0 := { t.cp0 with debugReg := { t.cp0.debugReg with bsf := true } }, draws := t.draws + 1 }
  else runFetched s f

/-- Halted or dozing: an active interrupt line ends the mode, masked or not; else nothing happens (R481, R482). -/
def State.stoppedBoundary (s : State) : State := if s.platform.intLines = 0#6 then s else s.wake

/-- One step of the core. -/
def coreStep (s : State) : Result :=
  if s.cp0.stopped then .next s.stoppedBoundary
  else if s.inDebug then s.debugBoundary
  else s.normalBoundary

/-- The schedule without its first move. -/
def State.tailSchedule (s : State) : State :=
  { s with platform := { s.platform with schedule := s.platform.schedule.tail } }

/-- One step of the machine: the next move of the platform, or a step of the core. -/
def machineStep (s : State) : Result :=
  match s.platform.schedule with
  | [] => coreStep s
  | .core :: _ => coreStep s.tailSchedule
  | m :: _ => s.tailSchedule.platformMove m

/-- The word stored where the next fetch reads it, in the byte order of the memory interface, and visible to it. -/
def State.placeWord (s : State) (word : Word) : State :=
  let a := wordAddress (segmentMap s.pc).pAddr
  let big := s.platform.product.bigEndianMem
  let m := [0, 1, 2, 3].foldl (fun m k => Memory.write m (a + k) (byteOfWord big word k)) s.drainedBytes
  { s with memory := { s.memory with
      bytes := m
      buffer := []
      icache := Sparse.write none s.memory.icache (a / 16) none
      stale := s.memory.stale.filter fun e => e.word != a
      devices := s.drainedDevices } }

end Sys2Proof.Machine
end

