-- ==== Sys2Proof/Safety.lean ====
section
/-! DEFINITION. The terms in which statements about the machine are made: the invariant that every step keeps, the
frames (what an instruction leaves as it was), and where a load or a store goes. -/

namespace Sys2Proof.Machine

/-! The invariant. -/

/-- The words of the valid instruction cache lines that a cached fetch may use are those of memory (D9): of a valid
line, a word that no device holds and that is not refused as stale. And a word stored to since, but not synchronised,
is in no valid line unless it is marked so. -/
structure State.InstructionCacheOk (s : State) : Prop where
  wf : Sparse.wf none s.memory.icache = true
  current : ∀ line words, s.instructionLine line = some words → ∀ k (h : k < 4),
    s.platform.isDevice (16 * line + 4 * k) = false → s.isStale (16 * line + 4 * k) true = false →
    words[k] = s.busWord (16 * line + 4 * k)
  marked : ∀ e ∈ s.memory.stale, e.held = false → e.synced = false → s.instructionLine (e.word / 16) = none

/-- At most one line of a set is locked (R140, R141). -/
def CacheSet.oneLock (c : CacheSet) : Bool := !(c.way0.lock && c.way1.lock)

/-- The bits of Status, Cause and Cache that are not the "0" bits of the register tables (R40, R50, R70). Cause.IP is
the lines themselves, so its bits are not stored. -/
def statusBits : Word := 0xF250FF3F#32
def causeBits : Word := 0xB000037C#32
def cacheBits : Word := 0x00003F00#32

/-- What holds in every state that a run from a state with it reaches. -/
structure State.Inv (s : State) : Prop where
  /-- Memory is in its canonical form. -/
  memory : Memory.wf s.memory.bytes = true
  /-- So is the data cache. -/
  dcache : Sparse.wf Ways.empty s.memory.dcache = true
  /-- No set holds two locked lines (R140). -/
  oneLock : ∀ i, (s.readSet i).oneLock = true
  /-- The instruction cache is in canonical form and agrees with memory as far as D9 lets a fetch use it. -/
  icache : s.InstructionCacheOk
  /-- The cell of r0 is never written (R31). -/
  zeroCell : s.gpr[0] = 0#32
  /-- The "0" bits of Status, Cause and Cache are zero (R39). -/
  status : s.cp0.status &&& ~~~statusBits = 0#32
  cause : s.cp0.cause &&& ~~~causeBits = 0#32
  cache : s.cp0.cache &&& ~~~cacheBits = 0#32
  /-- Config bits 31:12 are the product's (R66). -/
  config : s.cp0.config &&& ~~~configMask = resetConfig s.platform.product &&& ~~~configMask
  /-- Halt and Doze are not both set (R68, U11). -/
  oneStop : (s.cp0.halt && s.cp0.doze) = false
  /-- `hilo_read_age` is 0, 1 or 2 (R284). -/
  readAge : s.hidden.hiloReadAge ≤ 2
  /-- Outside a delay slot the next instruction is the next word (R300). -/
  straight : s.slot = .none → s.nextPc = s.pc + 4#32
  /-- A delay slot is the word after its jump or branch (R300). -/
  inSlot : ∀ a taken, s.slot = .branch a taken → s.pc = a + 4#32
  /-- The slot of a branch that is not taken runs on (R302). -/
  notTaken : ∀ a, s.slot = .branch a false → s.nextPc = s.pc + 4#32
  /-- The delay slot of DERET is inside the debug handler (R389). -/
  deretSlot : ∀ a, s.slot = .deret a → s.pc = a + 4#32 ∧ s.inDebug = true

/-! Frames. -/

/-- CP0 when the instruction at `pc` completes without writing to it: the delay slot of DERET clears Debug.DM (R389),
anything else leaves CP0 as it was. -/
def State.settledCp0 (s : State) : Cp0 :=
  { s.cp0 with debugReg := { s.cp0.debugReg with dm := s.cp0.debugReg.dm && !s.slot.isDeret } }

/-- The same for a load or store: in a debug handler Debug.TLF is cleared (R473). -/
def State.accessCp0 (s : State) : Cp0 :=
  { s.settledCp0 with debugReg := { s.settledCp0.debugReg with tlf := s.cp0.debugReg.tlf && !s.inDebug } }

/-- The failed loads still to be reported, once another instruction has completed or an exception has been entered: none
of them is the previous instruction any more (R92, R462). -/
def State.agedLate (s : State) : List LateError := s.hidden.late.map fun e => { e with fresh := false }

/-- `hilo_read_age` after an instruction that completes and reads neither HI nor LO: one more, at most 2 (R283). -/
def State.nextReadAge (s : State) : Nat := if s.hidden.hiloReadAge = 0 then 1 else 2

/-- The CP0 windows after an instruction that completes and opens none: those of its predecessor are one instruction
older, and those of one instruction are over (R384, R387, R524 to R529). -/
def State.agedWindows (s : State) : Windows :=
  { afterCp0Write := false, afterStatusMove := false, cu1 := 0#4, cu2 := s.hidden.windows.cu1, ku1 := false,
    ku2 := s.hidden.windows.ku1, bev1 := false, irq1 := none }

/-- The hidden state of `t` after an instruction that completes from `s`, reads neither HI nor LO, divides nothing and
opens no window. The conditions have been sampled (R362); the single-step suppression begins when the delay slot of
DERET completes, and lasts into a delay slot only (R97, R474); the NmI latch, the running division and the failed loads
stay (R95, R284, R462). `hilo_read_age` and `div_busy` are the spec's own inference (R284, log entry 42). The sample of
ICE for the next fetch is left open here (R535; `MoveToCp0`). -/
def State.settledHidden (s t : State) : Hidden :=
  { divBusy := s.hidden.divBusy
    hiloReadAge := s.nextReadAge
    windows := s.agedWindows
    ssSuppressed := s.slot.isDeret || (s.hidden.ssSuppressed && !t.slot.isNone)
    iceSample := t.hidden.iceSample
    nmiPending := s.hidden.nmiPending
    cocPrev := s.platform.coc
    late := s.agedLate }

/-- What an entry to an exception leaves of the hidden state: the NmI latch, the running division and the failed loads;
the single-step suppression ends (R95, R97, R284, R462). -/
structure KeepsPending (s t : State) : Prop where
  nmi : t.hidden.nmiPending = s.hidden.nmiPending
  divBusy : t.hidden.divBusy = s.hidden.divBusy
  late : t.hidden.late = s.agedLate
  suppression : t.hidden.ssSuppressed = false

/-- No byte of memory changes, neither as the bus has it nor in the caches, and no device sees an access. -/
structure SameMemory (s t : State) : Prop where
  bytes : ∀ a, t.busByte a = s.busByte a
  dcache : t.memory.dcache = s.memory.dcache
  lru : t.memory.lru = s.memory.lru
  icache : t.memory.icache = s.memory.icache
  devices : t.drainedDevices = s.drainedDevices

/-- No general register changes. -/
def SameRegisters (s t : State) : Prop := ∀ i, t.reg i = s.reg i

/-- General register `rd` takes `v`, a write to r0 being lost (R31); the others are as they were. -/
structure OnlyRegister (s t : State) (rd : RegIndex) (v : Word) : Prop where
  written : t.reg rd = if rd = 0#5 then 0#32 else v
  others : ∀ i, i ≠ rd → t.reg i = s.reg i

/-- HI and LO are as they were. -/
def SameHiLo (s t : State) : Prop := t.hi = s.hi ∧ t.lo = s.lo

/-- Execution goes on in sequence, or at the target of the jump whose delay slot this is (R300). -/
structure Sequential (s t : State) : Prop where
  pc : t.pc = s.nextPc
  nextPc : t.nextPc = s.nextPc + 4#32
  slot : t.slot = .none

/-- A jump or branch at `s.pc` to `target` is taken: its delay slot comes first (R300). -/
structure Jumps (s t : State) (target : Word) : Prop where
  pc : t.pc = s.nextPc
  nextPc : t.nextPc = target
  slot : t.slot = .branch s.pc true

/-- CP0, the memory and the platform are as they were. -/
structure Quiet (s t : State) : Prop where
  cp0 : t.cp0 = s.settledCp0
  memory : SameMemory s t
  platform : t.platform = s.platform

/-- The outcome is a next state in which general register `rd` holds `v` and nothing else but the pc has changed. -/
def Delivers (s : State) (r : Result) (rd : RegIndex) (v : Word) : Prop :=
  ∃ t, r = .next t ∧ OnlyRegister s t rd v ∧ SameHiLo s t ∧ Sequential s t ∧ Quiet s t ∧ t.hidden = s.settledHidden t

/-- The outcome is a next state in which HI, LO and general register `rd` have taken values, `hilo_read_age` is `age`
and `div_busy` is `busy` (R284), and nothing else but the pc has changed. -/
def DeliversHiLo (s : State) (r : Result) (hi lo : Word) (rd : RegIndex) (v : Word) (age : Nat) (busy : Bool) : Prop :=
  ∃ t, r = .next t ∧ t.hi = hi ∧ t.lo = lo ∧ OnlyRegister s t rd v ∧ Sequential s t ∧ Quiet s t ∧
    t.hidden = { s.settledHidden t with hiloReadAge := age, divBusy := busy }

/-- The outcome is a next state about to run the delay slot of a taken jump to `target`; general register `rd` holds
`v`, and nothing else has changed. -/
def JumpsWriting (s : State) (r : Result) (target : Word) (rd : RegIndex) (v : Word) : Prop :=
  ∃ t, r = .next t ∧ OnlyRegister s t rd v ∧ SameHiLo s t ∧ Jumps s t target ∧ Quiet s t ∧
    t.hidden = s.settledHidden t

/-- A branch whose displacement is `offset` completes: taken, or not and its delay slot runs (R302). What it does to
the general registers is `registers`. -/
def Branches (s : State) (r : Result) (registers : State → Prop) (taken : Prop) (offset : BitVec 16) : Prop :=
  ∃ t, r = .next t ∧ registers t ∧ SameHiLo s t ∧ Quiet s t ∧ t.hidden = s.settledHidden t ∧ t.pc = s.nextPc ∧
    (taken → t.nextPc = s.pc + 4#32 + (offset ++ 0#2).signExtend 32 ∧ t.slot = .branch s.pc true) ∧
    (¬taken → t.nextPc = s.nextPc + 4#32 ∧ t.slot = .branch s.pc false)

/-- A likely branch completes: taken, or not and its delay slot is nullified (R303). -/
def BranchesLikely (s : State) (r : Result) (registers : State → Prop) (taken : Prop) (offset : BitVec 16) : Prop :=
  ∃ t, r = .next t ∧ registers t ∧ SameHiLo s t ∧ Quiet s t ∧ t.hidden = s.settledHidden t ∧
    (taken → t.pc = s.nextPc ∧ t.nextPc = s.pc + 4#32 + (offset ++ 0#2).signExtend 32 ∧
      t.slot = .branch s.pc true) ∧
    (¬taken → t.pc = s.pc + 8#32 ∧ t.nextPc = s.pc + 12#32 ∧ t.slot = .none)

/-- General register 31 takes the link value (R301). -/
def Links (s t : State) : Prop := OnlyRegister s t 31#5 (s.pc + 8#32)

/-- The word in the delay slot can be looked at for the placement rule and is no jump (R304, D17): it is fetched and
no jump, or its fetch would raise an exception. -/
def State.slotIsPlain (s : State) : Bool :=
  match s.fetchSlot with
  | .word w => !Decoded.isJump (decode w)
  | .addressError => true
  | .busError => true
  | .stale => false

/-! Where a load or a store goes. -/

/-- The word of memory that an access at a virtual address touches, by its physical address. -/
def accessWord (v : Word) : Nat := wordAddress (segmentMap v).pAddr

/-- Whether an access goes through the data cache (R114). -/
def State.throughDataCache (s : State) (v : Word) : Bool := (segmentMap v).cacheable && s.cp0.dce

/-- The line of the data cache that an access finds. -/
def State.foundLine (s : State) (v : Word) : Option Line :=
  if s.throughDataCache v then
    (s.hitWay (accessWord v)).map fun w => (s.readSet (s.setIndex (accessWord v))).way w
  else none

/-- The words of the read transaction of a load that finds no line (D27). -/
def State.readTransaction (s : State) (v : Word) : List Nat :=
  if s.throughDataCache v then blockWords s.cp0.dataRefillBytes (accessWord v) else [accessWord v]

/-- Memory answers every word of the load's transaction: no bus error and no device. -/
def State.memoryAnswers (s : State) (v : Word) : Bool :=
  (s.readTransaction v).all fun a => !s.platform.readFails a && !s.platform.isDevice a

/-- A data access is not the one right after an MTC0 that R384 forbids, and raises no Address Error. -/
def State.accessAllowed (s : State) (unaligned : Word → Bool) (v : Word) : Bool :=
  !s.hidden.windows.afterCp0Write && !s.addressFault unaligned v

/-- A load from an address completes without a bus error: it is allowed, and finds a line or memory answers. -/
def State.loadCompletes (s : State) (unaligned : Word → Bool) (v : Word) : Bool :=
  s.accessAllowed unaligned v && ((s.foundLine v).isSome || s.memoryAnswers v)

/-- The memory word that a load sees: the line of the data cache it finds, else the word of memory (R102, R130). -/
def State.seenWord (s : State) (v : Word) : Word :=
  match s.foundLine v with
  | some l => l.data
  | none => s.busWord (accessWord v)

/-- The byte of a memory word on lane `k`: lane 0 is bits 7:0 (R103). -/
def lane (w : Word) (k : Nat) : Byte := w.extractLsb' (8 * k) 8

/-- The number `byte` of R214 and R215: `vAddr[1:0]`, or 3 minus it for `BigEndianCPU`. -/
def State.partialByte (s : State) (v : Word) : Nat :=
  if s.bigEndianCpu then 3 - v.toNat % 4 else v.toNat % 4

/-- Loads and stores use the other byte order than memory: in user mode with Status.RE (R101). -/
def State.reversed (s : State) : Bool := s.cp0.re && s.userMode

/-- The physical address of the byte that a byte access reaches (R103). -/
def State.byteAddress (s : State) (v : Word) : Nat :=
  accessWord v + (v.toNat % 4 ^^^ if s.reversed then 3 else 0)

/-- The physical address of the lower byte that a halfword access reaches (R103). -/
def State.halfAddress (s : State) (v : Word) : Nat :=
  accessWord v + (v.toNat % 4 ^^^ if s.reversed then 2 else 0)

/-- A store to an address reaches the bus: it is allowed, and it finds no locked line. -/
def State.storeCompletes (s : State) (unaligned : Word → Bool) (v : Word) : Bool :=
  s.accessAllowed unaligned v &&
    (match s.foundLine v with
     | some l => !l.lock
     | none => true)

/-- The data cache is as it was. -/
def SameDataCache (s t : State) : Prop := t.memory.dcache = s.memory.dcache ∧ t.memory.lru = s.memory.lru

/-- No set of the data cache has changed but the one at an index. -/
def OnlySet (s t : State) (i : Nat) : Prop := ∀ j, j ≠ i → t.readSet j = s.readSet j

/-- The next state of a store that reaches the bus: nothing but the pc and the bytes of `stored` has changed in the
registers and in memory; a byte that is no RAM drops the write (D7). The data cache changes only if the store finds
its word there (`StoresToCachedLine` says how), and the instruction cache never (R147). -/
def Stores (s : State) (r : Result) (v : Word) (stored : Nat → Option Byte) : Prop :=
  ∃ t, r = .next t ∧ SameRegisters s t ∧ SameHiLo s t ∧ Sequential s t ∧ t.cp0 = s.accessCp0 ∧
    t.platform = s.platform ∧ t.hidden = s.settledHidden t ∧
    (∀ a, t.busByte a =
      match stored a with
      | some b => if s.platform.isRam a then b else s.busByte a
      | none => s.busByte a) ∧
    (s.foundLine v = none → SameDataCache s t) ∧ t.memory.icache = s.memory.icache ∧
    (s.platform.isDevice (accessWord v) = false → t.drainedDevices = s.drainedDevices)

/-! The data cache after a load. -/

/-- The way of a set that its LRU bit designates: way 0 or, `true`, way 1; the product says which for R = 0 (R395). -/
def State.designates (s : State) (c : CacheSet) : Bool := xor c.lru s.platform.product.lruZeroWay

/-- Accesses lock: Cache.DALc is 1 and no debug handler runs (R140, R86). -/
def State.locks (s : State) : Bool := s.cp0.cache.getLsbD 8 && !s.inDebug

/-- The set `c` after an access to its way `w`, which holds the word `data` with a tag: the line is locked if it was
(`locked`), or if accesses lock and the other line is not locked (R140); the other line is as it was; the LRU bit
designates the other way, unless that is locked (R136, R141). -/
structure Accessed (s : State) (c c' : CacheSet) (w : Bool) (tag : Nat) (data : Word) (locked : Bool) : Prop where
  line : c'.way w = { valid := true, lock := locked || (s.locks && !(c.way (!w)).lock), tag, data }
  other : c'.way (!w) = c.way (!w)
  lru : s.designates c' = if (c.way (!w)).lock then w else !w

/-- A refill may put a new line into way `w`: not over a locked line beside an unlocked one, not over a valid line
beside an invalid one, else where the LRU bit designates (R141). -/
structure Replaces (s : State) (c : CacheSet) (w : Bool) : Prop where
  lock : (c.way w).lock = true → (c.way (!w)).lock = true
  valid : (c.way w).lock = (c.way (!w)).lock → (c.way w).valid = true → (c.way (!w)).valid = true
  lru : (c.way w).lock = (c.way (!w)).lock → (c.way w).valid = (c.way (!w)).valid → w = s.designates c

/-- One word of a refill (R138): its set holds it from memory; a line that held it already is refreshed, unless it is
locked. -/
def Refills (s t : State) (b : Nat) : Prop :=
  let c := s.readSet (s.setIndex b)
  let c' := t.readSet (s.setIndex b)
  (∀ w, s.hitWay b = some w → (c.way w).lock = true → c' = c) ∧
  (∀ w, s.hitWay b = some w → (c.way w).lock = false → Accessed s c c' w (s.tagOf b) (s.busWord b) false) ∧
  (s.hitWay b = none → ∃ w, Replaces s c w ∧ Accessed s c c' w (s.tagOf b) (s.busWord b) false)

/-- The data cache after a load from an address: as it was, if the access does not go through it; after a hit, the set
of the word has noted the access; after a miss, every word of the refill is there, and no other set has changed. -/
structure Caches (s t : State) (v : Word) : Prop where
  around : s.throughDataCache v = false → SameDataCache s t
  hit : s.throughDataCache v = true → ∀ w, s.hitWay (accessWord v) = some w →
    let i := s.setIndex (accessWord v)
    let line := (s.readSet i).way w
    Accessed s (s.readSet i) (t.readSet i) w (s.tagOf (accessWord v)) line.data line.lock ∧ OnlySet s t i
  miss : s.throughDataCache v = true → s.hitWay (accessWord v) = none →
    (∀ b ∈ s.readTransaction v, Refills s t b) ∧
    ∀ j, (∀ b ∈ s.readTransaction v, s.setIndex b ≠ j) → t.readSet j = s.readSet j

/-- The next state of a load from `address`: general register `rt` holds `v`, and nothing else but the pc and the data
cache has changed; the bytes of memory are as they were, and no device is read. -/
def Loads (s : State) (r : Result) (address : Word) (rt : RegIndex) (v : Word) : Prop :=
  ∃ t, r = .next t ∧ OnlyRegister s t rt v ∧ SameHiLo s t ∧ Sequential s t ∧ t.cp0 = s.accessCp0 ∧
    t.platform = s.platform ∧ t.hidden = s.settledHidden t ∧ (∀ a, t.busByte a = s.busByte a) ∧
    t.memory.icache = s.memory.icache ∧ t.drainedDevices = s.drainedDevices ∧ (s.Inv → Caches s t address)

/-- The next state of a store to an address whose word the line `l` of the data cache holds: on each lane the line
holds what is stored there, or as before; its set has noted the access. A locked line keeps the store from the bus; for
any other the word of memory, where it is RAM, takes the store, and no other byte of memory changes. -/
def StoresToLine (s : State) (r : Result) (v : Word) (l : Line) (stored : Nat → Option Byte) : Prop :=
  let a := accessWord v
  let i := s.setIndex a
  let after (k : Nat) (old : Word) : Byte := (stored k).getD (lane old k)
  ∃ t w data, r = .next t ∧ SameRegisters s t ∧ SameHiLo s t ∧ Sequential s t ∧ t.cp0 = s.accessCp0 ∧
    t.platform = s.platform ∧ t.hidden = s.settledHidden t ∧ t.memory.icache = s.memory.icache ∧
    s.hitWay a = some w ∧ Accessed s (s.readSet i) (t.readSet i) w (s.tagOf a) data l.lock ∧ OnlySet s t i ∧
    (∀ k, k < 4 → lane data k = after k l.data) ∧
    (l.lock = true → (∀ x, t.busByte x = s.busByte x) ∧ t.drainedDevices = s.drainedDevices) ∧
    (l.lock = false → (∀ x, x < a ∨ a + 4 ≤ x → t.busByte x = s.busByte x) ∧
      ((∀ k, k < 4 → s.platform.isRam (a + k) = true) →
        ∀ k, k < 4 → lane (t.busWord a) k = after k (s.busWord a)))

/-! Accesses to devices. -/

/-- The next state of an uncached load of the device word `w`: `rt` holds `v`, and the device has seen one access, to
these bytes. -/
def LoadsFromDevice (s : State) (r : Result) (rt : RegIndex) (v : Word) (bytes : Nat → Prop) : Prop :=
  ∃ t l, r = .next t ∧ OnlyRegister s t rt v ∧ SameHiLo s t ∧ Sequential s t ∧ t.cp0 = s.accessCp0 ∧
    t.platform = s.platform ∧ t.hidden = s.settledHidden t ∧ (∀ a, t.busByte a = s.busByte a) ∧ SameDataCache s t ∧
    t.memory.icache = s.memory.icache ∧ t.drainedDevices = s.drainedDevices ++ [.load l] ∧ ∀ a, a ∈ l ↔ bytes a

/-- The next state of an uncached store to a device: memory is as it was, and the device sees one access, with these
bytes. -/
def StoresToDevice (s : State) (r : Result) (stored : Nat → Option Byte) : Prop :=
  ∃ t l, r = .next t ∧ SameRegisters s t ∧ SameHiLo s t ∧ Sequential s t ∧ t.cp0 = s.accessCp0 ∧
    t.platform = s.platform ∧ t.hidden = s.settledHidden t ∧ (∀ a, t.busByte a = s.busByte a) ∧ SameDataCache s t ∧
    t.memory.icache = s.memory.icache ∧ t.drainedDevices = s.drainedDevices ++ [.store l] ∧
    ∀ a b, (a, b) ∈ l ↔ stored a = some b

/-! Exceptions. -/

/-- What the entry to an ordinary exception does in `t` to the state `s` before it, but for its vector and code (R430,
R431): the mode stacks are pushed, EPC and BD name the victim (open for the bus errors outside R462), BadVAddr is
written by an Address Error only, and all else is kept. -/
structure Enters (s t : State) (e : Exception) : Prop where
  nextPc : t.nextPc = t.pc + 4#32
  slot : t.slot = .none
  registers : SameRegisters s t
  hiLo : SameHiLo s t
  memory : SameMemory s t
  platform : t.platform = s.platform
  pending : KeepsPending s t
  statusStack : t.cp0.status.extractLsb' 0 6 = s.cp0.status.extractLsb' 0 4 ++ 0#2
  statusRest : t.cp0.status.extractLsb' 6 26 = s.cp0.status.extractLsb' 6 26
  cacheStack : t.cp0.cache.extractLsb' 8 6 = s.cp0.cache.extractLsb' 8 4 ++ 0#2
  cacheRest : t.cp0.cache &&& 0xFFFFC0FF#32 = s.cp0.cache &&& 0xFFFFC0FF#32
  softwareBits : t.cp0.sw = s.cp0.sw
  victim : e ≠ .busErrorFetch → e ≠ .busErrorData false → s.slot = .none → t.cp0.epc = s.pc ∧ t.cp0.bd = false
  victimInSlot : e ≠ .busErrorFetch → e ≠ .busErrorData false → ∀ a taken, s.slot = .branch a taken →
    t.cp0.epc = a ∧ t.cp0.bd = true
  address : ∀ v, e = .addressLoad v ∨ e = .addressStore v → t.cp0.badVAddr = v
  noAddress : (∀ v, e ≠ .addressLoad v ∧ e ≠ .addressStore v) → t.cp0.badVAddr = s.cp0.badVAddr
  others : t.cp0.config = s.cp0.config ∧ t.cp0.debugReg = s.cp0.debugReg ∧ t.cp0.depc = s.cp0.depc

/-- The vector of an ordinary exception by BEV (R425). -/
def VectorBy (bev : Bool) (t : State) : Prop := t.pc = if bev then 0xBFC00180#32 else 0x80000080#32

/-! Coprocessor instructions. -/

/-- The coprocessor whose instruction this is: op = 0100zz, and CACHE (R350). -/
def coprocessorOf : Instr → Option (BitVec 2)
  | .mfc0 _ _ | .mtc0 _ _ | .cfc0 _ _ | .ctc0 _ _ | .bc0f _ | .bc0t _ | .bc0fl _ | .bc0tl _ => some 0#2
  | .tlbr | .tlbwi | .tlbwr | .tlbp | .rfe | .deret | .cache _ _ _ => some 0#2
  | .mfc1 _ _ | .mtc1 _ _ | .cfc1 _ _ | .ctc1 _ _ | .bc1f _ | .bc1t _ | .bc1fl _ | .bc1tl _ | .cop1 _ => some 1#2
  | .mfc2 _ _ | .mtc2 _ _ | .cfc2 _ _ | .ctc2 _ _ | .bc2f _ | .bc2t _ | .bc2fl _ | .bc2tl _ | .cop2 _ => some 2#2
  | .mfc3 _ _ | .mtc3 _ _ | .cfc3 _ _ | .ctc3 _ _ | .bc3f _ | .bc3t _ | .bc3fl _ | .bc3tl _ | .cop3 _ => some 3#2
  | _ => none

/-- The next state has the registers, HI, LO, the memory and the platform as they were, this CP0, and these windows. -/
def SetsCp0 (s : State) (r : Result) (c : Cp0) (w : Windows) : Prop :=
  ∃ t, r = .next t ∧ SameRegisters s t ∧ SameHiLo s t ∧ Sequential s t ∧ t.cp0 = c ∧ SameMemory s t ∧
    t.platform = s.platform ∧ t.hidden = { s.settledHidden t with windows := w }

/-- Nothing but the pc has changed. -/
def OnlyAdvances (s : State) (r : Result) : Prop := SetsCp0 s r s.settledCp0 s.agedWindows

/-- The next state has this platform around it, and nothing else but the pc has changed. -/
def SetsPlatform (s : State) (r : Result) (p : Platform) : Prop :=
  ∃ t, r = .next t ∧ SameRegisters s t ∧ SameHiLo s t ∧ Sequential s t ∧ t.cp0 = s.settledCp0 ∧ SameMemory s t ∧
    t.platform = p ∧ t.hidden = s.settledHidden t

/-- The next state has this data cache set at an index, and nothing else but the pc has changed. -/
def SetsCacheSet (s : State) (r : Result) (i : Nat) (c : CacheSet) : Prop :=
  ∃ t, r = .next t ∧ SameRegisters s t ∧ SameHiLo s t ∧ Sequential s t ∧ t.cp0 = s.settledCp0 ∧
    t.platform = s.platform ∧ t.hidden = s.settledHidden t ∧ (∀ a, t.busByte a = s.busByte a) ∧
    t.memory.icache = s.memory.icache ∧ t.drainedDevices = s.drainedDevices ∧ ∀ j, t.readSet j = if j = i then c else s.readSet j

end Sys2Proof.Machine
end

