-- ==== Sys2Proof/Certificates/Slice0/Obligations.lean ====
section
/-! DEFINITION. The statements for the provers. Each docstring names the rules it formalises; the words of the frames
(`Delivers`, `Loads`, `Stores`, `Branches` and so on) are in Safety.lean. -/

open Sys2Proof Sys2Proof.Machine

/-! Encoding. -/

/-- Every instruction, well formed or not, is what its encoding decodes to (R161 to R186). -/
def Obligations.EncodeThenDecode : Prop := ∀ i : Instr, decode (encode i) = .instr i

/-- A word that decodes to an instruction is that instruction's encoding: no bit of it is dropped (R161 to R186). -/
def Obligations.DecodeThenEncode : Prop := ∀ (w : Word) (i : Instr), decode w = .instr i → encode i = w

/-- Words written out from the encodings of the spec decode to the instructions they stand for. The words of TLBR,
TLBWI, TLBWR and TLBP are general knowledge, as R174 marks them (log entry 38). -/
def Obligations.WrittenWordsDecode : Prop :=
  decode 0x00000000#32 = .instr (.sll 0#5 0#5 0#5) ∧
  decode 0x3C058000#32 = .instr (.lui 5#5 0x8000#16) ∧
  decode 0x0BF00040#32 = .instr (.j 0x3F00040#26) ∧
  decode 0x0000000F#32 = .instr .sync ∧
  decode 0x42000010#32 = .instr .rfe ∧
  decode 0x42000001#32 = .instr .tlbr ∧
  decode 0x42000002#32 = .instr .tlbwi ∧
  decode 0x42000006#32 = .instr .tlbwr ∧
  decode 0x42000008#32 = .instr .tlbp

/-- A word of a `*` cell of the primary map or of SPECIAL, or of a `ξ` cell (LWCz and SWCz, whatever the CU bits are),
when it executes, raises Reserved Instruction and does nothing else; so does the `*` cell of COP0 if CP0 is usable,
which raises Coprocessor Unusable otherwise (R177). That Coprocessor Unusable comes first for that one word is the spec's
own inference: R180 says that the order "is not stated and is taken as CpU first" (log entry 36). -/
def Obligations.ReservedWordsTrap : Prop :=
  ∀ (s : State) (w : Word), s.inDebug = false →
    (opField w ∈ [0b011000#6, 0b011001#6, 0b011010#6, 0b011011#6, 0b011101#6, 0b011110#6, 0b011111#6, 0b100111#6,
        0b101100#6, 0b101101#6, 0b110000#6, 0b110100#6, 0b110101#6, 0b110110#6, 0b110111#6, 0b111000#6, 0b111100#6,
        0b111101#6, 0b111110#6, 0b111111#6] ∨
      opField w ∈ [0b110001#6, 0b110010#6, 0b110011#6, 0b111001#6, 0b111010#6, 0b111011#6] ∨
      opField w = 0b000000#6 ∧
        (functField w ∈ [0b000001#6, 0b000101#6, 0b001010#6, 0b001011#6, 0b101000#6, 0b101001#6] ∨
          0b010100#6 ≤ functField w ∧ functField w ≤ 0b010111#6 ∨
          0b011100#6 ≤ functField w ∧ functField w ≤ 0b011111#6 ∨
          0b101100#6 ≤ functField w) →
      runDecoded (decode w) s = .next (s.exceptionEntry .reservedInstruction)) ∧
    (opField w = 0b010000#6 → w.getLsbD 25 = true → functField w = 0b011000#6 →
      runDecoded (decode w) s = .next (s.exceptionEntry
        (if s.usable 0#2 then .reservedInstruction else .coprocessorUnusable 0#2)))

/-! The invariant, and the step. -/

/-- Every step of the machine, whatever the platform does at it, keeps the invariant.
The model's own part in it is log entry 22. -/
def Obligations.StepKeepsInvariant : Prop := ∀ s t : State, s.Inv → step s = .next t → t.Inv

/-- The state after reset has the invariant. The model's own part in it is log entries 1, 4. -/
def Obligations.ResetHasInvariant : Prop := State.reset.Inv

/-- When no move of the platform and no event is due, and the four bytes at the program counter decode to an
instruction, the step is that instruction's meaning, at a state in which the fetch has changed the memory system only,
and there no byte of memory and nothing of the data cache; an uncached fetch with no write buffered changes nothing.
The same for any fetched word. In the delay slot of DERET the word must be the NOP (R107, R160, R300, R389, D10).
The model's own part in it is log entries 18, 24, 27, 29. -/
def Obligations.StepRunsTheDecodedInstruction : Prop :=
  ∀ (s : State) (i : Instr), s.platform.schedule = [] → s.cp0.stopped = false →
    (s.inDebug = true → s.lateDue s.fetch = false) →
    (s.inDebug = false → s.event s.fetch = none ∧ s.singleStepDue = false) →
    (s.slot.isDeret = true → i = .sll 0#5 0#5 0#5) →
    let a := accessWord s.pc
    let through := fetchThrough (segmentMap s.pc) s.hidden.iceSample
    (∀ w, s.fetch = .word w → decode w = .instr i → step s = exec i s.fetched) ∧
    s.fetched = { s with memory := s.fetched.memory } ∧ (∀ b, s.fetched.busByte b = s.busByte b) ∧
    SameDataCache s s.fetched ∧
    (through = false → s.memory.buffer = [] → (∀ b ∈ s.fetchBlock a through, s.platform.isDevice b = false) →
      s.fetched = s) ∧
    (s.Inv → unaligned4 s.pc = false → s.kernelAddressInUserMode s.pc = false →
      (∀ b ∈ s.fetchBlock a through, s.platform.readFails b = false) → s.platform.isDevice a = false →
      s.isStale a through = false →
      decodeBytes s.platform.product.bigEndianMem
        [s.busByte a, s.busByte (a + 1), s.busByte (a + 2), s.busByte (a + 3)] = some (.instr i) →
      step s = exec i s.fetched)

/-! General registers. -/

/-- r0 reads as 0, and a write to it has no effect; any other register holds what was written last (R31). -/
def Obligations.RegisterZero : Prop :=
  ∀ (s : State) (i : RegIndex) (v : Word), s.reg 0#5 = 0#32 ∧ s.writeReg 0#5 v = s ∧
    (i ≠ 0#5 → (s.writeReg i v).reg i = v) ∧ ∀ j, j ≠ i → (s.writeReg i v).reg j = s.reg j

/-! Computational instructions. -/

/-- The immediate instructions that cannot overflow: their words, and their results in every state (R234 to R240). -/
def Obligations.ImmediateResults : Prop :=
  ∀ (s : State) (rs rt : RegIndex) (imm : BitVec 16),
    (decode (joinI 0b001001#6 rs rt imm) = .instr (.addiu rs rt imm) ∧
      decode (joinI 0b001010#6 rs rt imm) = .instr (.slti rs rt imm) ∧
      decode (joinI 0b001011#6 rs rt imm) = .instr (.sltiu rs rt imm) ∧
      decode (joinI 0b001100#6 rs rt imm) = .instr (.andi rs rt imm) ∧
      decode (joinI 0b001101#6 rs rt imm) = .instr (.ori rs rt imm) ∧
      decode (joinI 0b001110#6 rs rt imm) = .instr (.xori rs rt imm) ∧
      decode (joinI 0b001111#6 0b00000#5 rt imm) = .instr (.lui rt imm)) ∧
    Delivers s (exec (.addiu rs rt imm) s) rt (s.reg rs + imm.signExtend 32) ∧
    Delivers s (exec (.slti rs rt imm) s) rt (if (s.reg rs).toInt < imm.toInt then 1#32 else 0#32) ∧
    Delivers s (exec (.sltiu rs rt imm) s) rt
      (if (s.reg rs).toNat < (imm.signExtend 32).toNat then 1#32 else 0#32) ∧
    Delivers s (exec (.andi rs rt imm) s) rt (s.reg rs &&& (0#16 ++ imm)) ∧
    Delivers s (exec (.ori rs rt imm) s) rt (s.reg rs ||| (0#16 ++ imm)) ∧
    Delivers s (exec (.xori rs rt imm) s) rt (s.reg rs ^^^ (0#16 ++ imm)) ∧
    Delivers s (exec (.lui rt imm) s) rt (imm ++ 0#16)

/-- The three-operand instructions that cannot overflow: their words, and their results in every state (R242, R244 to
R249). -/
def Obligations.ThreeOperandResults : Prop :=
  ∀ (s : State) (rs rt rd : RegIndex),
    let word (funct : BitVec 6) : Word := joinR 0b000000#6 rs rt rd 0b00000#5 funct
    (decode (word 0b100001#6) = .instr (.addu rs rt rd) ∧ decode (word 0b100011#6) = .instr (.subu rs rt rd) ∧
      decode (word 0b101010#6) = .instr (.slt rs rt rd) ∧ decode (word 0b101011#6) = .instr (.sltu rs rt rd) ∧
      decode (word 0b100100#6) = .instr (.and rs rt rd) ∧ decode (word 0b100101#6) = .instr (.or rs rt rd) ∧
      decode (word 0b100110#6) = .instr (.xor rs rt rd) ∧ decode (word 0b100111#6) = .instr (.nor rs rt rd)) ∧
    Delivers s (exec (.addu rs rt rd) s) rd (s.reg rs + s.reg rt) ∧
    Delivers s (exec (.subu rs rt rd) s) rd (s.reg rs - s.reg rt) ∧
    Delivers s (exec (.slt rs rt rd) s) rd (if (s.reg rs).toInt < (s.reg rt).toInt then 1#32 else 0#32) ∧
    Delivers s (exec (.sltu rs rt rd) s) rd (if (s.reg rs).toNat < (s.reg rt).toNat then 1#32 else 0#32) ∧
    Delivers s (exec (.and rs rt rd) s) rd (s.reg rs &&& s.reg rt) ∧
    Delivers s (exec (.or rs rt rd) s) rd (s.reg rs ||| s.reg rt) ∧
    Delivers s (exec (.xor rs rt rd) s) rd (s.reg rs ^^^ s.reg rt) ∧
    Delivers s (exec (.nor rs rt rd) s) rd (~~~(s.reg rs ||| s.reg rt))

/-- The shifts, by the sa field or by the low five bits of rs: their words, and their results in every state. The
all-zero word is SLL r0, r0, 0 and changes nothing (R250 to R255). -/
def Obligations.ShiftResults : Prop :=
  ∀ (s : State) (rs rt rd : RegIndex) (sa : BitVec 5),
    (decode (joinR 0b000000#6 0b00000#5 rt rd sa 0b000000#6) = .instr (.sll rt rd sa) ∧
      decode (joinR 0b000000#6 0b00000#5 rt rd sa 0b000010#6) = .instr (.srl rt rd sa) ∧
      decode (joinR 0b000000#6 0b00000#5 rt rd sa 0b000011#6) = .instr (.sra rt rd sa) ∧
      decode (joinR 0b000000#6 rs rt rd 0b00000#5 0b000100#6) = .instr (.sllv rs rt rd) ∧
      decode (joinR 0b000000#6 rs rt rd 0b00000#5 0b000110#6) = .instr (.srlv rs rt rd) ∧
      decode (joinR 0b000000#6 rs rt rd 0b00000#5 0b000111#6) = .instr (.srav rs rt rd)) ∧
    Delivers s (exec (.sll rt rd sa) s) rd (BitVec.ofNat 32 ((s.reg rt).toNat * 2 ^ sa.toNat)) ∧
    Delivers s (exec (.srl rt rd sa) s) rd (BitVec.ofNat 32 ((s.reg rt).toNat / 2 ^ sa.toNat)) ∧
    Delivers s (exec (.sra rt rd sa) s) rd (BitVec.ofInt 32 ((s.reg rt).toInt / 2 ^ sa.toNat)) ∧
    Delivers s (exec (.sllv rs rt rd) s) rd (BitVec.ofNat 32 ((s.reg rt).toNat * 2 ^ ((s.reg rs).toNat % 32))) ∧
    Delivers s (exec (.srlv rs rt rd) s) rd (BitVec.ofNat 32 ((s.reg rt).toNat / 2 ^ ((s.reg rs).toNat % 32))) ∧
    Delivers s (exec (.srav rs rt rd) s) rd (BitVec.ofInt 32 ((s.reg rt).toInt / 2 ^ ((s.reg rs).toNat % 32))) ∧
    decode 0x00000000#32 = .instr (.sll 0#5 0#5 0#5) ∧ OnlyAdvances s (exec (.sll 0#5 0#5 0#5) s)

/-- ADDI, ADD and SUB: their words; they deliver the exact signed sum or difference when it is in range, and take the
Overflow exception with nothing else done when it is not (R233, R241, R243). In a debug handler an instruction that
would raise an exception has no meaning (U16; `HazardsAreRefused`). -/
def Obligations.SignedArithmetic : Prop :=
  ∀ (s : State) (rs rt rd : RegIndex) (imm : BitVec 16),
    let a := (s.reg rs).toInt
    let b := (s.reg rt).toInt
    let fits (x : Int) : Prop := -2 ^ 31 ≤ x ∧ x < 2 ^ 31
    (decode (joinI 0b001000#6 rs rt imm) = .instr (.addi rs rt imm) ∧
      decode (joinR 0b000000#6 rs rt rd 0b00000#5 0b100000#6) = .instr (.add rs rt rd) ∧
      decode (joinR 0b000000#6 rs rt rd 0b00000#5 0b100010#6) = .instr (.sub rs rt rd)) ∧
    (fits (a + imm.toInt) → Delivers s (exec (.addi rs rt imm) s) rt (BitVec.ofInt 32 (a + imm.toInt))) ∧
    (fits (a + b) → Delivers s (exec (.add rs rt rd) s) rd (BitVec.ofInt 32 (a + b))) ∧
    (fits (a - b) → Delivers s (exec (.sub rs rt rd) s) rd (BitVec.ofInt 32 (a - b))) ∧
    (s.inDebug = false →
      (¬fits (a + imm.toInt) → exec (.addi rs rt imm) s = .next (s.exceptionEntry .overflow)) ∧
      (¬fits (a + b) → exec (.add rs rt rd) s = .next (s.exceptionEntry .overflow)) ∧
      (¬fits (a - b) → exec (.sub rs rt rd) s = .next (s.exceptionEntry .overflow)))

/-! Multiply and divide. -/

/-- MULT and MULTU: their words, and the exact 64-bit product in HI and LO, its low word in rd too, in every state
(R271, R272). No division runs after them, and they do not count as a read of HI or LO (R283, R284): `div_busy` and
`hilo_read_age` are the spec's own inference, which R284 marks so, and log entry 42. -/
def Obligations.MultiplyResults : Prop :=
  ∀ (s : State) (rs rt rd : RegIndex),
    (decode (joinR 0b000000#6 rs rt rd 0b00000#5 0b011000#6) = .instr (.mult rs rt rd) ∧
      decode (joinR 0b000000#6 rs rt rd 0b00000#5 0b011001#6) = .instr (.multu rs rt rd)) ∧
    (∃ hi lo, DeliversHiLo s (exec (.mult rs rt rd) s) hi lo rd lo s.nextReadAge false ∧
      (hi ++ lo).toInt = (s.reg rs).toInt * (s.reg rt).toInt) ∧
    (∃ hi lo, DeliversHiLo s (exec (.multu rs rt rd) s) hi lo rd lo s.nextReadAge false ∧
      (hi ++ lo).toNat = (s.reg rs).toNat * (s.reg rt).toNat)

/-- MADD and MADDU: the product is added to HI and LO modulo 2 to the 64 (R273, R274); they read HI and LO, so
`hilo_read_age` is 0 after them, and no division runs (R283, R284; log entry 42). -/
def Obligations.MultiplyAddResults : Prop :=
  ∀ (s : State) (rs rt rd : RegIndex),
    (∃ hi lo, DeliversHiLo s (exec (.madd rs rt rd) s) hi lo rd lo 0 false ∧
      hi ++ lo = BitVec.ofInt 64 ((s.hi ++ s.lo).toInt + (s.reg rs).toInt * (s.reg rt).toInt)) ∧
    (∃ hi lo, DeliversHiLo s (exec (.maddu rs rt rd) s) hi lo rd lo 0 false ∧
      hi ++ lo = BitVec.ofNat 64 ((s.hi ++ s.lo).toNat + (s.reg rs).toNat * (s.reg rt).toNat))

/-- DIV and DIVU: the quotient in LO and the remainder in HI. That the signed quotient is truncated toward zero is the
model's choice (log entry 9, D16). A division by zero, and the overflowing signed division, complete without an
exception too; HI and LO then take values of which nothing is said (log entry 10, D15), and nothing else changes (R275,
R277, U3). Each of them sets `div_busy` (R284; log entry 42). -/
def Obligations.DivideResults : Prop :=
  ∀ (s : State) (rs rt : RegIndex), s.hidden.hiloReadAge = 2 →
    let overflows : Prop := s.reg rs = 0x80000000#32 ∧ s.reg rt = 0xFFFFFFFF#32
    (∃ hi lo, DeliversHiLo s (exec (.div rs rt) s) hi lo 0#5 0#32 2 true ∧
      (s.reg rt ≠ 0#32 → ¬overflows → lo.toInt = (s.reg rs).toInt.tdiv (s.reg rt).toInt ∧
        hi.toInt = (s.reg rs).toInt.tmod (s.reg rt).toInt)) ∧
    ∃ hi lo, DeliversHiLo s (exec (.divu rs rt) s) hi lo 0#5 0#32 2 true ∧
      (s.reg rt ≠ 0#32 → lo.toNat = (s.reg rs).toNat / (s.reg rt).toNat ∧
        hi.toNat = (s.reg rs).toNat % (s.reg rt).toNat)

/-- The moves from and to HI and LO. While a division may be running, the register that is not written takes a value
of which nothing is said (R278 to R282, U4). After a move from them `hilo_read_age` is 0, and after each of the four no
division runs (R283, R284). The model's own part in it is log entry 42. -/
def Obligations.HiLoMoves : Prop :=
  ∀ (s : State) (rs rd : RegIndex),
    DeliversHiLo s (exec (.mfhi rd) s) s.hi s.lo rd s.hi 0 false ∧
    DeliversHiLo s (exec (.mflo rd) s) s.hi s.lo rd s.lo 0 false ∧
    (∃ lo, DeliversHiLo s (exec (.mthi rs) s) (s.reg rs) lo 0#5 0#32 s.nextReadAge false ∧
      (s.hidden.divBusy = false → lo = s.lo)) ∧
    ∃ hi, DeliversHiLo s (exec (.mtlo rs) s) hi (s.reg rs) 0#5 0#32 s.nextReadAge false ∧
      (s.hidden.divBusy = false → hi = s.hi)

/-! Loads, stores and SYNC. -/

/-- The byte, halfword and word loads put the lane of the memory word that R103 selects into the register (R204 to
R208, R103). The data cache after a load is as `Caches` says: a hit notes the access and, with auto-lock, locks its line;
a miss refills its block (R136, R138, R140, R141, R145). The model's own part in it is log entries 20, 21, 22. -/
def Obligations.LoadResults : Prop :=
  ∀ (s : State) (base rt : RegIndex) (offset : BitVec 16),
    let v := s.reg base + offset.signExtend 32
    let k := if s.bigEndianCpu then 3 - v.toNat % 4 else v.toNat % 4
    let h := if s.bigEndianCpu then 2 - v.toNat % 4 else v.toNat % 4
    (s.loadCompletes unaligned1 v = true →
      Loads s (exec (.lb base rt offset) s) v rt ((lane (s.seenWord v) k).signExtend 32) ∧
      Loads s (exec (.lbu base rt offset) s) v rt ((lane (s.seenWord v) k).setWidth 32)) ∧
    (s.loadCompletes unaligned2 v = true →
      Loads s (exec (.lh base rt offset) s) v rt
        ((lane (s.seenWord v) (h + 1) ++ lane (s.seenWord v) h).signExtend 32) ∧
      Loads s (exec (.lhu base rt offset) s) v rt
        ((lane (s.seenWord v) (h + 1) ++ lane (s.seenWord v) h).setWidth 32)) ∧
    (s.loadCompletes unaligned4 v = true → Loads s (exec (.lw base rt offset) s) v rt (s.seenWord v))

/-- A load that finds no line of the data cache delivers the bytes of memory at the addresses that the byte orders of
the mode and of memory give (R101 to R104, R204 to R208); the data cache after it is as in `LoadResults`.
The model's own part in it is log entries 20, 21, 22. -/
def Obligations.LoadsReadMemoryBytes : Prop :=
  ∀ (s : State) (base rt : RegIndex) (offset : BitVec 16),
    let v := s.reg base + offset.signExtend 32
    let big := s.platform.product.bigEndianMem
    s.foundLine v = none →
    (s.loadCompletes unaligned1 v = true →
      Loads s (exec (.lbu base rt offset) s) v rt ((s.busByte (s.byteAddress v)).setWidth 32)) ∧
    (s.loadCompletes unaligned2 v = true →
      let b0 := s.busByte (s.halfAddress v)
      let b1 := s.busByte (s.halfAddress v + 1)
      Loads s (exec (.lhu base rt offset) s) v rt ((if big then b0 ++ b1 else b1 ++ b0).setWidth 32)) ∧
    (s.loadCompletes unaligned4 v = true →
      let b0 := s.busByte (accessWord v)
      let b1 := s.busByte (accessWord v + 1)
      let b2 := s.busByte (accessWord v + 2)
      let b3 := s.busByte (accessWord v + 3)
      Loads s (exec (.lw base rt offset) s) v rt (if big then b0 ++ b1 ++ b2 ++ b3 else b3 ++ b2 ++ b1 ++ b0))

/-- LWL and LWR, case by case over the table of R214; the data cache after them is as in `LoadResults`, where the
model's own part is log entries 20, 21, 22. -/
def Obligations.LoadLeftRightTable : Prop :=
  ∀ (s : State) (base rt : RegIndex) (offset : BitVec 16),
    let v := s.reg base + offset.signExtend 32
    let w := lane (s.seenWord v)
    let r := lane (s.reg rt)
    s.loadCompletes unaligned1 v = true →
    (s.partialByte v = 0 →
      Loads s (exec (.lwl base rt offset) s) v rt (w 0 ++ r 2 ++ r 1 ++ r 0) ∧
      Loads s (exec (.lwr base rt offset) s) v rt (w 3 ++ w 2 ++ w 1 ++ w 0)) ∧
    (s.partialByte v = 1 →
      Loads s (exec (.lwl base rt offset) s) v rt (w 1 ++ w 0 ++ r 1 ++ r 0) ∧
      Loads s (exec (.lwr base rt offset) s) v rt (r 3 ++ w 3 ++ w 2 ++ w 1)) ∧
    (s.partialByte v = 2 →
      Loads s (exec (.lwl base rt offset) s) v rt (w 2 ++ w 1 ++ w 0 ++ r 0) ∧
      Loads s (exec (.lwr base rt offset) s) v rt (r 3 ++ r 2 ++ w 3 ++ w 2)) ∧
    (s.partialByte v = 3 →
      Loads s (exec (.lwl base rt offset) s) v rt (w 3 ++ w 2 ++ w 1 ++ w 0) ∧
      Loads s (exec (.lwr base rt offset) s) v rt (r 3 ++ r 2 ++ r 1 ++ w 3))

/-- SB, SH and SW store the low bytes of the register at the addresses that the byte orders of the mode and of memory
give, and no other byte of memory changes (R211 to R213, R101 to R104).
The model's own part in it is log entries 18, 19. -/
def Obligations.StoreResults : Prop :=
  ∀ (s : State) (base rt : RegIndex) (offset : BitVec 16), Memory.wf s.memory.bytes = true →
    let v := s.reg base + offset.signExtend 32
    let big := s.platform.product.bigEndianMem
    let r := lane (s.reg rt)
    (s.storeCompletes unaligned1 v = true →
      Stores s (exec (.sb base rt offset) s) v fun a => if a = s.byteAddress v then some (r 0) else none) ∧
    (s.storeCompletes unaligned2 v = true →
      Stores s (exec (.sh base rt offset) s) v fun a =>
        if a = s.halfAddress v then some (r (if big then 1 else 0))
        else if a = s.halfAddress v + 1 then some (r (if big then 0 else 1))
        else none) ∧
    (s.storeCompletes unaligned4 v = true →
      Stores s (exec (.sw base rt offset) s) v fun a =>
        if accessWord v ≤ a ∧ a < accessWord v + 4
        then some (r (if big then 3 - (a - accessWord v) else a - accessWord v)) else none)

/-- SWL and SWR, case by case over the table of R215, which the spec derives from R216, R217 and R102: the memory word
after the store, where the word is RAM (a store elsewhere is D7 and log entry 19); no byte outside the word changes. The
data cache after a hit is in `StoresToCachedLine`. -/
def Obligations.StoreLeftRightTable : Prop :=
  ∀ (s : State) (base rt : RegIndex) (offset : BitVec 16), Memory.wf s.memory.bytes = true →
    let v := s.reg base + offset.signExtend 32
    let w := lane (s.busWord (accessWord v))
    let r := lane (s.reg rt)
    let after (i : Instr) (word : Word) : Prop :=
      ∃ t, exec i s = .next t ∧ t.busWord (accessWord v) = word ∧ SameRegisters s t ∧ SameHiLo s t ∧ Sequential s t ∧
        t.cp0 = s.accessCp0 ∧ t.platform = s.platform ∧ t.hidden = s.settledHidden t ∧
        ∀ a, a < accessWord v ∨ accessWord v + 4 ≤ a → t.busByte a = s.busByte a
    s.storeCompletes unaligned1 v = true → (∀ k, k < 4 → s.platform.isRam (accessWord v + k) = true) →
    (s.partialByte v = 0 →
      after (.swl base rt offset) (w 3 ++ w 2 ++ w 1 ++ r 3) ∧ after (.swr base rt offset) (r 3 ++ r 2 ++ r 1 ++ r 0)) ∧
    (s.partialByte v = 1 →
      after (.swl base rt offset) (w 3 ++ w 2 ++ r 3 ++ r 2) ∧ after (.swr base rt offset) (r 2 ++ r 1 ++ r 0 ++ w 0)) ∧
    (s.partialByte v = 2 →
      after (.swl base rt offset) (w 3 ++ r 3 ++ r 2 ++ r 1) ∧ after (.swr base rt offset) (r 1 ++ r 0 ++ w 1 ++ w 0)) ∧
    (s.partialByte v = 3 →
      after (.swl base rt offset) (r 3 ++ r 2 ++ r 1 ++ r 0) ∧ after (.swr base rt offset) (r 0 ++ w 2 ++ w 1 ++ w 0))

/-- SB, SH, SW, SWL and SWR to a word that the data cache holds: the lanes they write take the register's bytes in the
line; if the line is locked, memory keeps its old bytes, else it is written through (R132, R141); the access locks the
line under auto-lock (R140). The model's own part in it is log entries 22, 23. -/
def Obligations.StoresToCachedLine : Prop :=
  ∀ (s : State) (base rt : RegIndex) (offset : BitVec 16) (l : Line), s.Inv →
    let v := s.reg base + offset.signExtend 32
    let b := s.partialByte v
    let h := if s.bigEndianCpu then 2 - v.toNat % 4 else v.toNat % 4
    let r := lane (s.reg rt)
    s.foundLine v = some l →
    (s.accessAllowed unaligned1 v = true →
      StoresToLine s (exec (.sb base rt offset) s) v l (fun k => if k = b then some (r 0) else none) ∧
      StoresToLine s (exec (.swl base rt offset) s) v l (fun k => if k ≤ b then some (r (3 - b + k)) else none) ∧
      StoresToLine s (exec (.swr base rt offset) s) v l (fun k => if b ≤ k then some (r (k - b)) else none)) ∧
    (s.accessAllowed unaligned2 v = true →
      StoresToLine s (exec (.sh base rt offset) s) v l
        (fun k => if k = h then some (r 0) else if k = h + 1 then some (r 1) else none)) ∧
    (s.accessAllowed unaligned4 v = true →
      StoresToLine s (exec (.sw base rt offset) s) v l (fun k => some (r k)))

/-- An uncached access to a device region is one bus access that the device sees, with the bytes of the access's own
size; a load delivers lanes of the word that the device's handler answers, and a store leaves memory as it is. The fetch
of a word of a device delivers the handler's word, and the device sees the fetch (R118, R153, D7). LWL and LWR, SWL and
SWR use the lanes of R214 and R215. For a store no byte of the word is RAM: a region whose boundary lies inside a word is
log entry 19. What a handler answers is the platform's: the model's own part in it is log entries 19, 27. -/
def Obligations.DeviceAccesses : Prop :=
  ∀ (s : State) (base rt : RegIndex) (offset : BitVec 16) (handler : Nat),
    let v := s.reg base + offset.signExtend 32
    let big := s.platform.product.bigEndianMem
    let r := lane (s.reg rt)
    let answer (a : Nat) : Word := Config.deviceRead handler s.drainedDevices s.draws a
    let b := s.partialByte v
    let h := if s.bigEndianCpu then 2 - v.toNat % 4 else v.toNat % 4
    let lanesAt (p : Nat → Prop) (a : Nat) : Prop :=
      ∃ k, k < 4 ∧ p k ∧ a = accessWord v + if big then 3 - k else k
    let storedLanes (byte : Nat → Option Byte) (a : Nat) : Option Byte :=
      if accessWord v ≤ a ∧ a < accessWord v + 4
      then byte (if big then 3 - (a - accessWord v) else a - accessWord v) else none
    (s.throughDataCache v = false → s.platform.handler (accessWord v) = some handler →
      s.platform.readFails (accessWord v) = false →
      let w := answer (accessWord v)
      (s.accessAllowed unaligned1 v = true →
        LoadsFromDevice s (exec (.lb base rt offset) s) rt ((lane w b).signExtend 32)
          (fun a => a = s.byteAddress v) ∧
        LoadsFromDevice s (exec (.lbu base rt offset) s) rt ((lane w b).setWidth 32)
          (fun a => a = s.byteAddress v) ∧
        (∃ x, LoadsFromDevice s (exec (.lwl base rt offset) s) rt x (lanesAt (fun k => k ≤ b)) ∧
          ∀ k, k < 4 → lane x k = if 3 - b ≤ k then lane w (k - (3 - b)) else r k) ∧
        (∃ x, LoadsFromDevice s (exec (.lwr base rt offset) s) rt x (lanesAt (fun k => b ≤ k)) ∧
          ∀ k, k < 4 → lane x k = if k + b < 4 then lane w (k + b) else r k)) ∧
      (s.accessAllowed unaligned2 v = true →
        LoadsFromDevice s (exec (.lh base rt offset) s) rt ((lane w (h + 1) ++ lane w h).signExtend 32)
          (fun a => a = s.halfAddress v ∨ a = s.halfAddress v + 1) ∧
        LoadsFromDevice s (exec (.lhu base rt offset) s) rt ((lane w (h + 1) ++ lane w h).setWidth 32)
          (fun a => a = s.halfAddress v ∨ a = s.halfAddress v + 1)) ∧
      (s.accessAllowed unaligned4 v = true →
        LoadsFromDevice s (exec (.lw base rt offset) s) rt w
          (fun a => accessWord v ≤ a ∧ a < accessWord v + 4))) ∧
    (s.throughDataCache v = false → s.platform.handler (accessWord v) = some handler →
      (∀ k, k < 4 → s.platform.isRam (accessWord v + k) = false) →
      (s.accessAllowed unaligned1 v = true →
        StoresToDevice s (exec (.sb base rt offset) s)
          (fun a => if a = s.byteAddress v then some (r 0) else none) ∧
        StoresToDevice s (exec (.swl base rt offset) s)
          (storedLanes fun k => if k ≤ b then some (r (3 - b + k)) else none) ∧
        StoresToDevice s (exec (.swr base rt offset) s)
          (storedLanes fun k => if b ≤ k then some (r (k - b)) else none)) ∧
      (s.accessAllowed unaligned2 v = true →
        StoresToDevice s (exec (.sh base rt offset) s)
          (fun a => if a = s.halfAddress v then some (r (if big then 1 else 0))
            else if a = s.halfAddress v + 1 then some (r (if big then 0 else 1))
            else none)) ∧
      (s.accessAllowed unaligned4 v = true →
        StoresToDevice s (exec (.sw base rt offset) s) (storedLanes fun k => some (r k)))) ∧
    (let a := accessWord s.pc
     let through := fetchThrough (segmentMap s.pc) s.hidden.iceSample
     let block := s.fetchBlock a through
     unaligned4 s.pc = false → s.kernelAddressInUserMode s.pc = false → through = false →
      (∀ b ∈ block, s.platform.readFails b = false) → s.platform.handler a = some handler →
      s.isStale a through = false →
      s.fetch = .word (answer a) ∧
        ∃ l, s.fetched.drainedDevices = s.drainedDevices ++ [.fetch l] ∧
          ∀ b, b ∈ l ↔ b ∈ block ∧ s.platform.isDevice b = true)

/-- A misaligned halfword or word access, and any access from user mode to an address with bit 31 set, takes the
Address Error exception and does nothing else (R106, R112, R452). -/
def Obligations.AddressErrors : Prop :=
  ∀ (s : State) (base rt : RegIndex) (offset : BitVec 16), s.inDebug = false →
    s.hidden.windows.afterCp0Write = false →
    let v := s.reg base + offset.signExtend 32
    let fails (i : Instr) (e : Machine.Exception) : Prop := exec i s = .next (s.exceptionEntry e)
    (v.toNat % 2 ≠ 0 →
      fails (.lh base rt offset) (.addressLoad v) ∧ fails (.lhu base rt offset) (.addressLoad v) ∧
      fails (.sh base rt offset) (.addressStore v)) ∧
    (v.toNat % 4 ≠ 0 →
      fails (.lw base rt offset) (.addressLoad v) ∧ fails (.sw base rt offset) (.addressStore v)) ∧
    (s.userMode = true → 2 ^ 31 ≤ v.toNat →
      (∀ i ∈ [Instr.lb base rt offset, .lbu base rt offset, .lh base rt offset, .lhu base rt offset,
        .lw base rt offset, .lwl base rt offset, .lwr base rt offset], fails i (.addressLoad v)) ∧
      ∀ i ∈ [Instr.sb base rt offset, .sh base rt offset, .sw base rt offset, .swl base rt offset,
        .swr base rt offset], fails i (.addressStore v))

/-- The direct segment mapping, segment by segment (R111). -/
def Obligations.SegmentMapping : Prop :=
  ∀ v : Word,
    (v.toNat < 2 ^ 31 → (segmentMap v).pAddr.toNat = v.toNat + 2 ^ 30 ∧
      ((segmentMap v).cacheable = true ↔ v.toNat < 0x7F000000)) ∧
    (0x80000000 ≤ v.toNat → v.toNat < 0xA0000000 →
      (segmentMap v).pAddr.toNat = v.toNat - 0x80000000 ∧ (segmentMap v).cacheable = true) ∧
    (0xA0000000 ≤ v.toNat → v.toNat < 0xC0000000 →
      (segmentMap v).pAddr.toNat = v.toNat - 0xA0000000 ∧ (segmentMap v).cacheable = false) ∧
    (0xC0000000 ≤ v.toNat → (segmentMap v).pAddr = v ∧
      ((segmentMap v).cacheable = true ↔ v.toNat < 0xFF000000))

/-- SYNC completes every earlier store on the bus and changes no register (R151, R218); a word stored to before it is
visible to cached fetches after it, if the instruction cache holds no old copy of it, as after Reset (R502, D9).
The model's own part in it is log entries 18, 24. -/
def Obligations.SyncDrainsTheWriteBuffer : Prop :=
  ∀ s : State, ∃ t, exec .sync s = .next t ∧ SameRegisters s t ∧ SameHiLo s t ∧ Sequential s t ∧ Quiet s t ∧
    t.hidden = s.settledHidden t ∧ t.memory.buffer = [] ∧ (∀ a, Memory.read t.memory.bytes a = s.busByte a) ∧
    (∀ word, (∀ e ∈ s.memory.stale, e.word = word → e.held = false) → t.isStale word true = false) ∧
    ∀ word through, s.isStale word through = false → t.isStale word through = false

/-! Jumps and branches. -/

/-- J, JAL, JR and JALR outside a delay slot: the delay slot comes next, then the target; JAL and JALR write the link
(R301, R306 to R309). The model's own part in it is log entry 51. -/
def Obligations.JumpResults : Prop :=
  ∀ (s : State) (target : BitVec 26) (rs rd : RegIndex), s.slot = .none →
    let goal := BitVec.ofNat 32 ((s.pc + 4#32).toNat / 2 ^ 28 * 2 ^ 28 + target.toNat * 4)
    JumpsWriting s (exec (.j target) s) goal 0#5 0#32 ∧
    JumpsWriting s (exec (.jal target) s) goal 31#5 (s.pc + 8#32) ∧
    JumpsWriting s (exec (.jr rs) s) (s.reg rs) 0#5 0#32 ∧
    (rs ≠ rd → JumpsWriting s (exec (.jalr rs rd) s) (s.reg rs) rd (s.pc + 8#32)) ∧
    (rs = rd → exec (.jalr rs rd) s = .refused .jalrSameRegister)

/-- The conditional branches outside a delay slot; the And Link forms write r31 whether or not they are taken (R301,
R302, R311 to R318). -/
def Obligations.BranchResults : Prop :=
  ∀ (s : State) (rs rt : RegIndex) (offset : BitVec 16), s.slot = .none →
    let a := (s.reg rs).toInt
    Branches s (exec (.beq rs rt offset) s) (SameRegisters s) (s.reg rs = s.reg rt) offset ∧
    Branches s (exec (.bne rs rt offset) s) (SameRegisters s) (s.reg rs ≠ s.reg rt) offset ∧
    Branches s (exec (.blez rs offset) s) (SameRegisters s) (a ≤ 0) offset ∧
    Branches s (exec (.bgtz rs offset) s) (SameRegisters s) (0 < a) offset ∧
    Branches s (exec (.bltz rs offset) s) (SameRegisters s) (a < 0) offset ∧
    Branches s (exec (.bgez rs offset) s) (SameRegisters s) (0 ≤ a) offset ∧
    Branches s (exec (.bltzal rs offset) s) (Links s) (a < 0) offset ∧
    Branches s (exec (.bgezal rs offset) s) (Links s) (0 ≤ a) offset

/-- The likely branches outside a delay slot, before a word that is no jump: not taken, the delay slot is nullified
(R301 to R303, R319 to R326). The model's own part in it is log entry 28. -/
def Obligations.LikelyBranchResults : Prop :=
  ∀ (s : State) (rs rt : RegIndex) (offset : BitVec 16), s.slot = .none → s.slotIsPlain = true →
    let a := (s.reg rs).toInt
    BranchesLikely s (exec (.beql rs rt offset) s) (SameRegisters s) (s.reg rs = s.reg rt) offset ∧
    BranchesLikely s (exec (.bnel rs rt offset) s) (SameRegisters s) (s.reg rs ≠ s.reg rt) offset ∧
    BranchesLikely s (exec (.blezl rs offset) s) (SameRegisters s) (a ≤ 0) offset ∧
    BranchesLikely s (exec (.bgtzl rs offset) s) (SameRegisters s) (0 < a) offset ∧
    BranchesLikely s (exec (.bltzl rs offset) s) (SameRegisters s) (a < 0) offset ∧
    BranchesLikely s (exec (.bgezl rs offset) s) (SameRegisters s) (0 ≤ a) offset ∧
    BranchesLikely s (exec (.bltzall rs offset) s) (Links s) (a < 0) offset ∧
    BranchesLikely s (exec (.bgezall rs offset) s) (Links s) (0 ≤ a) offset

/-- A jump, branch or DERET in a delay slot has no meaning; nor has a likely branch that is not taken before one (R304,
U6, D17). The model's own part in it is log entry 28. -/
def Obligations.JumpInDelaySlotIsRefused : Prop :=
  (∀ (s : State) (i : Instr), s.slot ≠ .none → Instr.isJump i = true → exec i s = .refused .branchInDelaySlot) ∧
  ∀ (s : State) (rs rt : RegIndex) (offset : BitVec 16) (w : Word), s.slot = .none → s.fetchSlot = .word w →
    Decoded.isJump (decode w) = true →
    let a := (s.reg rs).toInt
    let refused (i : Instr) : Prop := exec i s = .refused .branchInDelaySlot
    let sampled (z : Nat) : Prop := s.hidden.cocPrev.getLsbD z = true
    (s.reg rs ≠ s.reg rt → refused (.beql rs rt offset)) ∧ (s.reg rs = s.reg rt → refused (.bnel rs rt offset)) ∧
    (0 < a → refused (.blezl rs offset)) ∧ (a ≤ 0 → refused (.bgtzl rs offset)) ∧
    (0 ≤ a → refused (.bltzl rs offset) ∧ refused (.bltzall rs offset)) ∧
    (a < 0 → refused (.bgezl rs offset) ∧ refused (.bgezall rs offset)) ∧
    (s.usable 0#2 = true → (sampled 0 → refused (.bc0fl offset)) ∧ (¬sampled 0 → refused (.bc0tl offset))) ∧
    (s.usable 1#2 = true → (sampled 1 → refused (.bc1fl offset)) ∧ (¬sampled 1 → refused (.bc1tl offset))) ∧
    (s.usable 2#2 = true → (sampled 2 → refused (.bc2fl offset)) ∧ (¬sampled 2 → refused (.bc2tl offset))) ∧
    (s.usable 3#2 = true → (sampled 3 → refused (.bc3fl offset)) ∧ (¬sampled 3 → refused (.bc3tl offset)))

/-! Traps. -/

/-- SYSCALL, BREAK, and the LWCz and SWCz words, enter their exceptions (R177, R341, R342). -/
def Obligations.TrapInstructions : Prop :=
  ∀ (s : State) (code : BitVec 20) (base rt : RegIndex) (offset : BitVec 16), s.inDebug = false →
    exec (.syscall code) s = .next (s.exceptionEntry .syscall) ∧
    exec (.brk code) s = .next (s.exceptionEntry .breakpoint) ∧
    ∀ i ∈ [Instr.lwc1 base rt offset, .lwc2 base rt offset, .lwc3 base rt offset, .swc1 base rt offset,
      .swc2 base rt offset, .swc3 base rt offset], exec i s = .next (s.exceptionEntry .reservedInstruction)

/-- SDBBP outside a debug handler enters the debug exception: DEPC, the Debug bits and the pc change, and no other
register; a pending NmI and the failed loads stay (R343, R470). The model's own part in it is log entries 16, 33. -/
def Obligations.SdbbpEntersDebug : Prop :=
  ∀ (s : State) (code : BitVec 20), s.inDebug = false →
    ∃ t, exec (.sdbbp code) s = .next t ∧ t.pc = 0xBFC00200#32 ∧ t.nextPc = 0xBFC00204#32 ∧ t.slot = .none ∧
      SameRegisters s t ∧ SameHiLo s t ∧ SameMemory s t ∧ t.platform = s.platform ∧ KeepsPending s t ∧
      t.cp0 = { s.cp0 with
        depc := t.cp0.depc
        debugReg := { s.cp0.debugReg with
          dbd := t.cp0.debugReg.dbd, dm := true, dss := false, dbp := true, nis := false, oes := false } } ∧
      (s.slot = .none → t.cp0.depc = s.pc ∧ t.cp0.debugReg.dbd = false) ∧
      ∀ a taken, s.slot = .branch a taken → t.cp0.depc = a ∧ t.cp0.debugReg.dbd = true

/-- Uses that the spec calls undefined or not valid, and that stop by name: DIV or DIVU next or next but one after a
read of HI or LO (R283, U5, D14); SDBBP in a debug handler (R343, U8); CFC0 and CTC0 with CP0 usable (R357, U9, D23);
CACHE with another operation, with an uncached address, or with IndexInvalidate while the instruction cache is on
(R392, R394, U10). The model's own part in it is log entries 39, 40, 42. -/
def Obligations.UndefinedUsesAreRefused : Prop :=
  ∀ (s : State) (rs rt rd : RegIndex) (code : BitVec 20) (op : BitVec 5) (offset : BitVec 16),
    (s.hidden.hiloReadAge < 2 →
      exec (.div rs rt) s = .refused .divideAfterHiLoRead ∧ exec (.divu rs rt) s = .refused .divideAfterHiLoRead) ∧
    (s.inDebug = true → exec (.sdbbp code) s = .refused .sdbbpInDebugMode) ∧
    (s.usable 0#2 = true →
      exec (.cfc0 rt rd) s = .refused .controlMoveOfCp0 ∧ exec (.ctc0 rt rd) s = .refused .controlMoveOfCp0) ∧
    (let v := s.reg rs + offset.signExtend 32
     s.usable 0#2 = true → s.hidden.windows.afterCp0Write = false → s.kernelAddressInUserMode v = false →
      ((segmentMap v).cacheable = false → exec (.cache rs op offset) s = .refused .cacheUncachedAddress) ∧
      ((segmentMap v).cacheable = true → op ∉ [0b00000#5, 0b00101#5, 0b01001#5, 0b10001#5] →
        exec (.cache rs op offset) s = .refused .cacheUndefinedOperation) ∧
      ((segmentMap v).cacheable = true → op = 0b00000#5 → s.cp0.ice = true →
        exec (.cache rs op offset) s = .refused .indexInvalidateEnabled))

/-- Placements that the spec calls hazards or undefined, and that stop by name: RFE right after a move of Status, or with
interrupts enabled (R387, U13, U14); a load, store or CACHE right after an MTC0 of Status, Config or Cache (R384, U12);
CACHE in user mode with a kernel address (D25); DERET outside a debug handler (U15); and, in a debug handler, every
instruction that would raise an exception (R473, U16): SYSCALL, BREAK, an overflowing ADDI, ADD or SUB, a misaligned
halfword or word access, the LWCz and SWCz words, any reserved word, an instruction of a coprocessor that is not
usable, and a fetch that meets an Address Error or a Bus Error. The model's own part in it is log entries 15, 26, 29, 31,
40, 52. -/
def Obligations.HazardsAreRefused : Prop :=
  ∀ (s : State) (base rt rd : RegIndex) (offset : BitVec 16) (op : BitVec 5) (code : BitVec 20) (w : Word),
    let v := s.reg base + offset.signExtend 32
    let a := (s.reg base).toInt
    let b := (s.reg rt).toInt
    let fits (x : Int) : Prop := -2 ^ 31 ≤ x ∧ x < 2 ^ 31
    let refused (i : Instr) : Prop := exec i s = .refused .exceptionInDebugMode
    (s.usable 0#2 = true → s.hidden.windows.afterStatusMove = true → exec .rfe s = .refused .rfeAfterStatusMove) ∧
    (s.usable 0#2 = true → s.hidden.windows.afterStatusMove = false → s.cp0.iec = true →
      exec .rfe s = .refused .rfeInterruptsEnabled) ∧
    (s.hidden.windows.afterCp0Write = true →
      (∀ i ∈ [Instr.lb base rt offset, .lbu base rt offset, .lh base rt offset, .lhu base rt offset,
          .lw base rt offset, .lwl base rt offset, .lwr base rt offset, .sb base rt offset, .sh base rt offset,
          .sw base rt offset, .swl base rt offset, .swr base rt offset],
        exec i s = .refused .accessAfterCp0Write) ∧
      (s.usable 0#2 = true → exec (.cache base op offset) s = .refused .accessAfterCp0Write)) ∧
    (s.usable 0#2 = true → s.hidden.windows.afterCp0Write = false → s.userMode = true → v.getLsbD 31 = true →
      exec (.cache base op offset) s = .refused .cacheKernelAddress) ∧
    (s.usable 0#2 = true → s.slot = .none → s.inDebug = false → exec .deret s = .refused .deretOutsideDebug) ∧
    (s.inDebug = true →
      refused (.syscall code) ∧ refused (.brk code) ∧
      (¬fits (a + offset.toInt) → refused (.addi base rt offset)) ∧
      (¬fits (a + b) → refused (.add base rt rd)) ∧ (¬fits (a - b) → refused (.sub base rt rd)) ∧
      (s.hidden.windows.afterCp0Write = false → v.toNat % 2 ≠ 0 →
        ∀ i ∈ [Instr.lh base rt offset, .lhu base rt offset, .sh base rt offset], refused i) ∧
      (s.hidden.windows.afterCp0Write = false → v.toNat % 4 ≠ 0 →
        ∀ i ∈ [Instr.lw base rt offset, .sw base rt offset], refused i) ∧
      (∀ i ∈ [Instr.lwc1 base rt offset, .lwc2 base rt offset, .lwc3 base rt offset, .swc1 base rt offset,
        .swc2 base rt offset, .swc3 base rt offset], refused i) ∧
      (decode w = .reserved ∨ decode w = .reservedCp0 → runDecoded (decode w) s = .refused .exceptionInDebugMode) ∧
      (∀ i z, coprocessorOf i = some z → s.usable z = false → (Instr.isJump i = true → s.slot = .none) → refused i) ∧
      (s.platform.schedule = [] → s.cp0.stopped = false → s.hidden.late = [] →
        let a := accessWord s.pc
        let through := fetchThrough (segmentMap s.pc) s.hidden.iceSample
        (s.pc.toNat % 4 ≠ 0 → step s = .refused .exceptionInDebugMode) ∧
        (s.pc.toNat % 4 = 0 → (through = false ∨ s.instructionLine (a / 16) = none) →
          (∃ x ∈ s.fetchBlock a through, s.platform.readFails x = true) →
          step s = .refused .exceptionInDebugMode)))

/-- Words and fetches that stop by name: the invalid `γ` words, whatever the coprocessors' use (R178, D12); the words of
an instruction with a field printed as "0" that is not zero (R166, D11), where an instruction of coprocessor `z` takes
Coprocessor Unusable first (R180); in the delay slot of DERET, a word other than the NOP (U15, D19); and a word that was
stored to and may be seen in its old value (D9). The words of the four TLB instructions are log entry 38; the model's own
part in the rest is log entries 24, 29, and 36 for the words that are no instruction and the order beside Coprocessor
Unusable. -/
def Obligations.RefusedWordsAndFetches : Prop :=
  (∀ (s : State) (w : Word),
    let op := opField w
    let funct := functField w
    let sa : Prop := saField w ≠ 0#5
    let rs : Prop := rsField w ≠ 0#5
    let rt : Prop := rtField w ≠ 0#5
    let rd : Prop := rdField w ≠ 0#5
    let invalid : Prop := runDecoded (decode w) s = .refused .invalidEncoding
    let nonZero : Prop := runDecoded (decode w) s = .refused .nonZeroField
    let cops : List (BitVec 6) := [0b010000#6, 0b010001#6, 0b010010#6, 0b010011#6]
    let copNonZero (z : BitVec 2) : Prop :=
      (s.usable z = true → nonZero) ∧
      (s.usable z = false → s.inDebug = false →
        runDecoded (decode w) s = .next (s.exceptionEntry (.coprocessorUnusable z)))
    (op = 0b000001#6 → rtField w ∉ [0b00000#5, 0b00001#5, 0b00010#5, 0b00011#5, 0b10000#5, 0b10001#5, 0b10010#5,
      0b10011#5] → invalid) ∧
    (op ∈ cops → rsField w ∈ [0b00001#5, 0b00011#5, 0b00101#5, 0b00111#5, 0b01001#5, 0b01010#5, 0b01011#5, 0b01100#5,
      0b01101#5, 0b01110#5, 0b01111#5] → invalid) ∧
    (op ∈ cops → rsField w = 0b01000#5 → rtField w ∉ [0b00000#5, 0b00001#5, 0b00010#5, 0b00011#5] → invalid) ∧
    (op = 0b011100#6 → funct ∉ [0b000000#6, 0b000001#6] → invalid) ∧
    (op = 0b000000#6 → funct ∈ [0b000000#6, 0b000010#6, 0b000011#6] → rs → nonZero) ∧
    (op = 0b000000#6 → funct ∈ [0b000100#6, 0b000110#6, 0b000111#6, 0b011000#6, 0b011001#6, 0b100000#6, 0b100001#6,
      0b100010#6, 0b100011#6, 0b100100#6, 0b100101#6, 0b100110#6, 0b100111#6, 0b101010#6, 0b101011#6] → sa → nonZero) ∧
    (op = 0b000000#6 → funct ∈ [0b001000#6, 0b010001#6, 0b010011#6] → rt ∨ rd ∨ sa → nonZero) ∧
    (op = 0b000000#6 → funct = 0b001001#6 → rt ∨ sa → nonZero) ∧
    (op = 0b000000#6 → funct = 0b001111#6 → rs ∨ rt ∨ rd ∨ sa → nonZero) ∧
    (op = 0b000000#6 → funct ∈ [0b010000#6, 0b010010#6] → rs ∨ rt ∨ sa → nonZero) ∧
    (op = 0b000000#6 → funct ∈ [0b011010#6, 0b011011#6] → rd ∨ sa → nonZero) ∧
    (op ∈ [0b000110#6, 0b000111#6, 0b010110#6, 0b010111#6] → rt → nonZero) ∧
    (op = 0b001111#6 → rs → nonZero) ∧
    (op = 0b011100#6 → funct ∈ [0b000000#6, 0b000001#6] → sa → nonZero) ∧
    (op ∈ cops → rsField w ∈ [0b00000#5, 0b00010#5, 0b00100#5, 0b00110#5] → w.extractLsb' 0 11 ≠ 0#11 →
      copNonZero (w.extractLsb' 26 2)) ∧
    (op = 0b010000#6 → w.getLsbD 25 = true → funct ∈ [0b000001#6, 0b000010#6, 0b000110#6, 0b001000#6, 0b010000#6,
      0b011111#6] → w.extractLsb' 6 19 ≠ 0#19 → copNonZero 0#2)) ∧
  ∀ (s : State) (w : Word), s.platform.schedule = [] → s.cp0.stopped = false →
    (s.inDebug = true → s.lateDue s.fetch = false) →
    (s.inDebug = false → s.event s.fetch = none ∧ s.singleStepDue = false) →
    (s.slot.isDeret = true → s.fetch = .word w → w ≠ 0#32 → step s = .refused .deretSlotNotNop) ∧
    (s.fetch = .stale → step s = .refused .staleFetch)

/-! Coprocessors. -/

/-- An instruction of a coprocessor that is not usable takes Coprocessor Unusable with its number in Cause.CE, and has
no other effect; of those that R304 keeps out of delay slots, outside one (R180, R350, R455).
The model's own part in it is log entry 28. -/
def Obligations.CoprocessorUnusableTraps : Prop :=
  ∀ (s : State) (i : Instr) (z : BitVec 2), coprocessorOf i = some z → s.usable z = false → s.inDebug = false →
    (Instr.isJump i = true → s.slot = .none) →
    exec i s = .next (s.exceptionEntry (.coprocessorUnusable z)) ∧
      (s.exceptionEntry (.coprocessorUnusable z)).cp0.ce = z

/-- The moves between the general registers and a usable coprocessor; one that is not attached delivers some value and
takes nothing (R351 to R354, R356, D21). The model's own part in it is log entry 43. -/
def Obligations.CoprocessorMoves : Prop :=
  ∀ (s : State) (rt rd : RegIndex),
    let p := s.platform
    let some' (i : Instr) : Prop := ∃ v, Delivers s (exec i s) rt v
    let nothing (i : Instr) : Prop := OnlyAdvances s (exec i s)
    (s.usable 1#2 = true → p.present 1#2 = true →
      Delivers s (exec (.mfc1 rt rd) s) rt p.cop1.gpr[rd.toNat] ∧
      Delivers s (exec (.cfc1 rt rd) s) rt p.cop1.ctl[rd.toNat] ∧
      SetsPlatform s (exec (.mtc1 rt rd) s)
        { p with cop1 := { p.cop1 with gpr := p.cop1.gpr.set rd.toNat (s.reg rt) } } ∧
      SetsPlatform s (exec (.ctc1 rt rd) s)
        { p with cop1 := { p.cop1 with ctl := p.cop1.ctl.set rd.toNat (s.reg rt) } }) ∧
    (s.usable 2#2 = true → p.present 2#2 = true →
      Delivers s (exec (.mfc2 rt rd) s) rt p.cop2.gpr[rd.toNat] ∧
      Delivers s (exec (.cfc2 rt rd) s) rt p.cop2.ctl[rd.toNat] ∧
      SetsPlatform s (exec (.mtc2 rt rd) s)
        { p with cop2 := { p.cop2 with gpr := p.cop2.gpr.set rd.toNat (s.reg rt) } } ∧
      SetsPlatform s (exec (.ctc2 rt rd) s)
        { p with cop2 := { p.cop2 with ctl := p.cop2.ctl.set rd.toNat (s.reg rt) } }) ∧
    (s.usable 3#2 = true → p.present 3#2 = true →
      Delivers s (exec (.mfc3 rt rd) s) rt p.cop3.gpr[rd.toNat] ∧
      Delivers s (exec (.cfc3 rt rd) s) rt p.cop3.ctl[rd.toNat] ∧
      SetsPlatform s (exec (.mtc3 rt rd) s)
        { p with cop3 := { p.cop3 with gpr := p.cop3.gpr.set rd.toNat (s.reg rt) } } ∧
      SetsPlatform s (exec (.ctc3 rt rd) s)
        { p with cop3 := { p.cop3 with ctl := p.cop3.ctl.set rd.toNat (s.reg rt) } }) ∧
    (s.usable 1#2 = true → p.present 1#2 = false →
      some' (.mfc1 rt rd) ∧ some' (.cfc1 rt rd) ∧ nothing (.mtc1 rt rd) ∧ nothing (.ctc1 rt rd)) ∧
    (s.usable 2#2 = true → p.present 2#2 = false →
      some' (.mfc2 rt rd) ∧ some' (.cfc2 rt rd) ∧ nothing (.mtc2 rt rd) ∧ nothing (.ctc2 rt rd)) ∧
    (s.usable 3#2 = true → p.present 3#2 = false →
      some' (.mfc3 rt rd) ∧ some' (.cfc3 rt rd) ∧ nothing (.mtc3 rt rd) ∧ nothing (.ctc3 rt rd))

/-- COPz: the platform's operation changes that coprocessor's registers and its condition input, and nothing else; with
no coprocessor attached it does nothing (R351, R355, D21, D22). The model's own part in it is log entry 43. -/
def Obligations.CoprocessorOperations : Prop :=
  ∀ (s : State) (cofun : BitVec 25),
    let p := s.platform
    let r (z : Nat) (c : Coprocessor) := Config.copOp z cofun s.draws c (p.coc.getLsbD z)
    (s.usable 1#2 = true → p.present 1#2 = true → SetsPlatform s (exec (.cop1 cofun) s)
      { p with cop1 := (r 1 p.cop1).1, coc := setCondition p.coc 1#2 (r 1 p.cop1).2 }) ∧
    (s.usable 2#2 = true → p.present 2#2 = true → SetsPlatform s (exec (.cop2 cofun) s)
      { p with cop2 := (r 2 p.cop2).1, coc := setCondition p.coc 2#2 (r 2 p.cop2).2 }) ∧
    (s.usable 3#2 = true → p.present 3#2 = true → SetsPlatform s (exec (.cop3 cofun) s)
      { p with cop3 := (r 3 p.cop3).1, coc := setCondition p.coc 3#2 (r 3 p.cop3).2 }) ∧
    (s.usable 1#2 = true → p.present 1#2 = false → OnlyAdvances s (exec (.cop1 cofun) s)) ∧
    (s.usable 2#2 = true → p.present 2#2 = false → OnlyAdvances s (exec (.cop2 cofun) s)) ∧
    (s.usable 3#2 = true → p.present 3#2 = false → OnlyAdvances s (exec (.cop3 cofun) s))

/-- The branches on a coprocessor's condition, and their likely forms before a word that is no jump, use the value
sampled during the instruction before (R358 to R362, R303); every instruction samples the condition inputs as they stand
before it acts, and so does one that raises an exception. The model's own part in it is log entries 28, 43. -/
def Obligations.CoprocessorBranches : Prop :=
  (∀ (i : Instr) (s t : State), exec i s = .next t → t.hidden.cocPrev = s.platform.coc) ∧
  ∀ (s : State) (offset : BitVec 16), s.slot = .none →
    let sampled (z : Nat) : Prop := s.hidden.cocPrev.getLsbD z = true
    let b (i : Instr) (taken : Prop) : Prop := Branches s (exec i s) (SameRegisters s) taken offset
    let l (i : Instr) (taken : Prop) : Prop :=
      s.slotIsPlain = true → BranchesLikely s (exec i s) (SameRegisters s) taken offset
    (s.usable 0#2 = true → b (.bc0f offset) (¬sampled 0) ∧ b (.bc0t offset) (sampled 0) ∧
      l (.bc0fl offset) (¬sampled 0) ∧ l (.bc0tl offset) (sampled 0)) ∧
    (s.usable 1#2 = true → b (.bc1f offset) (¬sampled 1) ∧ b (.bc1t offset) (sampled 1) ∧
      l (.bc1fl offset) (¬sampled 1) ∧ l (.bc1tl offset) (sampled 1)) ∧
    (s.usable 2#2 = true → b (.bc2f offset) (¬sampled 2) ∧ b (.bc2t offset) (sampled 2) ∧
      l (.bc2fl offset) (¬sampled 2) ∧ l (.bc2tl offset) (sampled 2)) ∧
    (s.usable 3#2 = true → b (.bc3f offset) (¬sampled 3) ∧ b (.bc3t offset) (sampled 3) ∧
      l (.bc3fl offset) (¬sampled 3) ∧ l (.bc3tl offset) (sampled 3))

/-! CP0. -/

/-- PRId reads as `0x0000_2200 | Rev` and ignores writes (R62). -/
def Obligations.ProcessorId : Prop :=
  ∀ (s : State) (rt : RegIndex), s.usable 0#2 = true →
    Delivers s (exec (.mfc0 rt 15#5) s) rt (0x00002200#32 ||| s.platform.product.rev.setWidth 32) ∧
    ((s.cp0.halt && s.cp0.doze) = false → OnlyAdvances s (exec (.mtc0 rt 15#5) s))

/-- MFC0 delivers the register; Cause shows the interrupt lines; a reserved number delivers some value; a move of Status
opens the window in which RFE may not stand (R38, R51, R380, R383, R387). The model's own part in it is log entries 5, 45. -/
def Obligations.MoveFromCp0 : Prop :=
  ∀ (s : State) (rt rd : RegIndex), s.usable 0#2 = true →
    Delivers s (exec (.mfc0 rt 3#5) s) rt s.cp0.config ∧
    Delivers s (exec (.mfc0 rt 7#5) s) rt s.cp0.cache ∧
    Delivers s (exec (.mfc0 rt 8#5) s) rt s.cp0.badVAddr ∧
    (∃ t, exec (.mfc0 rt 12#5) s = .next t ∧ OnlyRegister s t rt s.cp0.status ∧ SameHiLo s t ∧ Sequential s t ∧
      Quiet s t ∧ t.hidden = { s.settledHidden t with windows := { s.agedWindows with afterStatusMove := true } }) ∧
    Delivers s (exec (.mfc0 rt 13#5) s) rt (s.cp0.cause ||| (0#16 ++ s.platform.intLines ++ 0#10)) ∧
    Delivers s (exec (.mfc0 rt 14#5) s) rt s.cp0.epc ∧
    Delivers s (exec (.mfc0 rt 17#5) s) rt s.cp0.depc ∧
    (∃ v, Delivers s (exec (.mfc0 rt 16#5) s) rt v ∧
      (s.platform.product.debugPositions = defaultDebugPositions →
        v.getLsbD 31 = s.cp0.debugReg.dbd ∧ v.getLsbD 30 = s.cp0.debugReg.dm ∧ v.getLsbD 14 = s.cp0.debugReg.nis ∧
        v.getLsbD 12 = s.cp0.debugReg.oes ∧ v.getLsbD 11 = s.cp0.debugReg.tlf ∧ v.getLsbD 10 = s.cp0.debugReg.bsf ∧
        v.getLsbD 8 = s.cp0.debugReg.sst ∧ v.getLsbD 1 = s.cp0.debugReg.dbp ∧ v.getLsbD 0 = s.cp0.debugReg.dss)) ∧
    (rd ∉ [3#5, 7#5, 8#5, 12#5, 13#5, 14#5, 15#5, 16#5, 17#5] → ∃ v, Delivers s (exec (.mfc0 rt rd) s) rt v)

/-- MTC0 writes the writable bits of the register and nothing else; read-only and reserved registers take nothing; a
locked Config takes nothing; a Config write that leaves Halt and Doze set has no meaning (R41, R45, R50, R54, R55,
R67, R70, R80, R81, R382, R383, U11). The windows that it opens: after Status, Config and Cache that of loads, stores and
CACHE, after Status that of RFE, and those of the fields CU, KUc and BEV that it changes; after Status and Cause what the
interrupts were enabled by (R384, R387, R525 to R529). The sample of ICE that the next fetch uses is taken after it (R535).
The model's own part in it is log entries 8, 14, 25, 33, 44, 45, 46, 55. -/
def Obligations.MoveToCp0 : Prop :=
  ∀ (s : State) (rt rd : RegIndex), s.usable 0#2 = true → (s.cp0.halt && s.cp0.doze) = false →
    let v := s.reg rt
    let c := s.settledCp0
    let written (mask old : Word) : Word := (old &&& ~~~mask) ||| (v &&& mask)
    let config := if s.cp0.config.getLsbD 7 then c.config else written 0x00000FFF#32 c.config
    let status := written 0xF240FF3F#32 c.status &&& ~~~(v &&& 0x00100000#32)
    let p := s.platform.product.debugPositions
    let access : Windows := { s.agedWindows with afterCp0Write := true }
    let mask : BitVec 8 := if s.cp0.status.getLsbD 0 then s.cp0.status.extractLsb' 8 8 else 0#8
    let interrupts := some (mask, s.cp0.cause.extractLsb' 8 2)
    (config.getLsbD 8 = false ∨ config.getLsbD 9 = false →
      SetsCp0 s (exec (.mtc0 rt 3#5) s) { c with config := config } access ∧
      ∀ t, exec (.mtc0 rt 3#5) s = .next t → t.hidden.iceSample =
        if s.slot.jumps then config.getLsbD 5
        else if s.pc.toNat / 16 ≠ s.nextPc.toNat / 16 then s.cp0.ice
        else s.hidden.iceSample) ∧
    (config.getLsbD 8 = true → config.getLsbD 9 = true → exec (.mtc0 rt 3#5) s = .refused .haltAndDoze) ∧
    SetsCp0 s (exec (.mtc0 rt 7#5) s) { c with cache := written 0x00003F00#32 c.cache } access ∧
    SetsCp0 s (exec (.mtc0 rt 12#5) s) { c with status := status }
      { access with
        afterStatusMove := true
        cu1 := s.cp0.status.extractLsb' 28 4 ^^^ status.extractLsb' 28 4
        ku1 := s.cp0.status.getLsbD 1 != status.getLsbD 1
        bev1 := s.cp0.status.getLsbD 22 != status.getLsbD 22
        irq1 := interrupts } ∧
    SetsCp0 s (exec (.mtc0 rt 13#5) s) { c with cause := written 0x00000300#32 c.cause }
      { s.agedWindows with irq1 := interrupts } ∧
    SetsCp0 s (exec (.mtc0 rt 16#5) s)
      { c with debugReg := { c.debugReg with sst := v.getLsbD p.sst, bsf := v.getLsbD p.bsf } } s.agedWindows ∧
    SetsCp0 s (exec (.mtc0 rt 17#5) s) { c with depc := v } s.agedWindows ∧
    (rd ∉ [3#5, 7#5, 12#5, 13#5, 16#5, 17#5] → OnlyAdvances s (exec (.mtc0 rt rd) s))

/-- RFE, with interrupts disabled and not right after a move of Status, pops the mode stacks and changes nothing else; no
window of KUc stays open after it, which is log entry 8 (R386, R387, R440). -/
def Obligations.ReturnFromException : Prop :=
  ∀ s : State, s.usable 0#2 = true → s.hidden.windows.afterStatusMove = false → s.cp0.iec = false →
    ∃ t, exec .rfe s = .next t ∧ SameRegisters s t ∧ SameHiLo s t ∧ Sequential s t ∧ SameMemory s t ∧
      t.platform = s.platform ∧
      t.hidden = { s.settledHidden t with windows := { s.agedWindows with ku2 := false } } ∧
      t.cp0 = { s.settledCp0 with status := t.cp0.status, cache := t.cp0.cache } ∧
      t.cp0.status.extractLsb' 0 4 = s.cp0.status.extractLsb' 2 4 ∧
      t.cp0.status.extractLsb' 4 28 = s.cp0.status.extractLsb' 4 28 ∧
      t.cp0.cache.extractLsb' 8 4 = s.cp0.cache.extractLsb' 10 4 ∧
      t.cp0.cache.extractLsb' 12 20 = s.cp0.cache.extractLsb' 12 20 ∧
      t.cp0.cache.extractLsb' 0 8 = s.cp0.cache.extractLsb' 0 8

/-- DERET in a debug handler jumps to DEPC; the NOP in its delay slot ends debug mode and begins the single-step
suppression, which an instruction keeps only into a delay slot (R97, R388, R389, R474).
The model's own part in it is log entry 29. -/
def Obligations.ReturnFromDebug : Prop :=
  (∀ s : State, s.inDebug = true →
    (s.slot = .none → ∃ t, exec .deret s = .next t ∧ SameRegisters s t ∧ SameHiLo s t ∧ Quiet s t ∧ t.cp0 = s.cp0 ∧
      t.hidden = s.settledHidden t ∧ t.pc = s.nextPc ∧ t.nextPc = s.cp0.depc ∧ t.slot = .deret s.pc) ∧
    ∀ a, s.slot = .deret a → ∃ t, exec (.sll 0#5 0#5 0#5) s = .next t ∧ SameRegisters s t ∧ SameHiLo s t ∧
      SameMemory s t ∧ t.platform = s.platform ∧ Sequential s t ∧ t.hidden = s.settledHidden t ∧
      t.hidden.ssSuppressed = true ∧ t.cp0 = { s.cp0 with debugReg := { s.cp0.debugReg with dm := false } }) ∧
  ∀ (i : Instr) (s t : State), s.slot.isDeret = false → exec i s = .next t →
    (t.hidden.ssSuppressed = true ↔ s.hidden.ssSuppressed = true ∧ t.slot ≠ .none)

/-- The four CACHE operations on a cached address that the mode may use: IndexInvalidate, with the instruction cache
off, makes the instruction cache lines of the index invalid, after which the words of the index that were stored to and
synchronised are visible to cached fetches (R394, D9), and changes no register, no byte and no data cache;
IndexLRUBitClear and IndexLockBitClear act on the set of the address, HitInvalidate on the line that holds it (R392 to
R396). The model's own part in it is log entries 24, 40, 60. -/
def Obligations.CacheOperations : Prop :=
  ∀ (s : State) (base : RegIndex) (offset : BitVec 16), s.Inv → s.usable 0#2 = true →
    s.hidden.windows.afterCp0Write = false →
    let v := s.reg base + offset.signExtend 32
    let a := accessWord v
    let i := s.setIndex a
    let c := s.readSet i
    s.kernelAddressInUserMode v = false → (segmentMap v).cacheable = true →
    (s.cp0.ice = false → s.hidden.iceSample = false →
      ∃ t, exec (.cache base 0b00000#5 offset) s = .next t ∧ SameRegisters s t ∧ SameHiLo s t ∧ Sequential s t ∧
        t.cp0 = s.settledCp0 ∧ t.platform = s.platform ∧ t.hidden = s.settledHidden t ∧
        (∀ x, t.busByte x = s.busByte x) ∧ SameDataCache s t ∧
        t.drainedDevices = s.drainedDevices ∧
        (∀ line, t.instructionLine line =
          if s.icacheIndex (16 * line) = s.icacheIndex a then none else s.instructionLine line) ∧
        ∀ word, s.icacheIndex word = s.icacheIndex a →
          (∀ e ∈ s.memory.stale, e.word = word → e.synced = true) → t.isStale word true = false) ∧
    SetsCacheSet s (exec (.cache base 0b00101#5 offset) s) i { c with lru := false } ∧
    SetsCacheSet s (exec (.cache base 0b01001#5 offset) s) i
      { c with way0 := { c.way0 with lock := false }, way1 := { c.way1 with lock := false } } ∧
    SetsCacheSet s (exec (.cache base 0b10001#5 offset) s) i
      (if c.way0.valid = true ∧ c.way0.tag = s.tagOf a then { c with way0 := { c.way0 with valid := false } }
       else if c.way1.valid = true ∧ c.way1.tag = s.tagOf a then { c with way1 := { c.way1 with valid := false } }
       else c)

/-- TLBR, TLBWI, TLBWR and TLBP, by their words, are no-operations when CP0 is usable, and Coprocessor Unusable when it
is not (R398). Which word is which is general knowledge, as R174 marks it: log entry 38. -/
def Obligations.MmuWordsDoNothing : Prop :=
  ∀ s : State,
    (decode 0x42000001#32 = .instr .tlbr ∧ decode 0x42000002#32 = .instr .tlbwi ∧
      decode 0x42000006#32 = .instr .tlbwr ∧ decode 0x42000008#32 = .instr .tlbp) ∧
    ∀ i ∈ [Instr.tlbr, .tlbwi, .tlbwr, .tlbp],
      (s.usable 0#2 = true → OnlyAdvances s (exec i s)) ∧
      (s.usable 0#2 = false → s.inDebug = false →
        exec i s = .next (s.exceptionEntry (.coprocessorUnusable 0#2)))

/-- The unnamed `φ` words of COP0 are no-operations when CP0 is usable, and Coprocessor Unusable when it is not.
The model's own part in it is log entry 37. -/
def Obligations.UnnamedMmuWords : Prop :=
  ∀ (s : State) (w : Word), opField w = 0b010000#6 → w.getLsbD 25 = true →
    functField w ∉ [0b000001#6, 0b000010#6, 0b000110#6, 0b001000#6, 0b010000#6, 0b011111#6, 0b011000#6] →
    (s.usable 0#2 = true → OnlyAdvances s (runDecoded (decode w) s)) ∧
    (s.usable 0#2 = false → s.inDebug = false →
      runDecoded (decode w) s = .next (s.exceptionEntry (.coprocessorUnusable 0#2)))

/-! Exceptions and interrupts. -/

/-- The entry to an ordinary exception, made by an instruction or at a boundary: its code and its vector, what it saves,
what it changes, and what it leaves (R54, R55, R420, R425, R430, R431). At a boundary in the write window of BEV a fetch
Bus Error uses the vector of the new bit (R527); for any other event the vector there is one of the two, which is the
model's choice: R527 calls the bit undefined and has the case refused, and the race is log entry 8. The free fields are
log entry 17; of the hidden state, a pending NmI, a running division and the failed loads stay, these as log entry 16
says. -/
def Obligations.ExceptionEntry : Prop :=
  ∀ (s : State) (e : Machine.Exception),
    let bev := s.cp0.status.getLsbD 22
    let code (t : State) (n : Nat) : Prop := t.cp0.cause.extractLsb' 2 5 = BitVec.ofNat 5 n
    let coded (t : State) : Prop :=
      (e = .interrupt → code t 0) ∧ (∀ v, e = .addressLoad v → code t 4) ∧ (∀ v, e = .addressStore v → code t 5) ∧
      (e = .busErrorFetch → code t 6) ∧ (∀ exact, e = .busErrorData exact → code t 7) ∧ (e = .syscall → code t 8) ∧
      (e = .breakpoint → code t 9) ∧ (e = .reservedInstruction → code t 10) ∧
      (∀ z, e = .coprocessorUnusable z → code t 11 ∧ t.cp0.cause.extractLsb' 28 2 = z) ∧ (e = .overflow → code t 12)
    Enters s (s.exceptionEntry e) e ∧ coded (s.exceptionEntry e) ∧ VectorBy bev (s.exceptionEntry e) ∧
    Enters s (s.boundaryEntry e) e ∧ coded (s.boundaryEntry e) ∧
    (VectorBy true (s.boundaryEntry e) ∨ VectorBy false (s.boundaryEntry e)) ∧
    (s.hidden.windows.bev1 = false ∨ e = .busErrorFetch → VectorBy bev (s.boundaryEntry e))

/-- An RFE at the head of a handler that has changed no register gives back the mode, interrupt and auto-lock bits of
before the exception, current and previous (R431, R440). -/
def Obligations.RfeUndoesTheEntry : Prop :=
  ∀ (s : State) (e : Machine.Exception), ∃ t, exec .rfe (s.exceptionEntry e) = .next t ∧
    t.cp0.status.extractLsb' 0 4 = s.cp0.status.extractLsb' 0 4 ∧
    t.cp0.cache.extractLsb' 8 4 = s.cp0.cache.extractLsb' 8 4

/-- An interrupt that is requested, unmasked and enabled is taken before an instruction that raises no exception: the
entry has ExcCode 0 and the instruction is not executed. None is taken while IEc is 0 or no requested interrupt is
unmasked (R445, R450). The model's own part in it is log entries 14, 35. -/
def Obligations.InterruptIsTaken : Prop :=
  ∀ s : State,
    let unmasked := (s.platform.intLines ++ s.cp0.cause.extractLsb' 8 2) &&& s.cp0.status.extractLsb' 8 8
    (∀ w : Word, s.platform.schedule = [] → s.cp0.stopped = false → s.inDebug = false →
      s.singleStepDue = false → s.hidden.late = [] → s.hidden.nmiPending = false → s.hidden.windows.irq1 = none →
      s.fetch = .word w → Decoded.raises s (decode w) = false → Decoded.isSdbbp (decode w) = false →
      s.cp0.status.getLsbD 0 = true → unmasked ≠ 0#8 →
      step s = .next (s.boundaryEntry .interrupt) ∧ (s.boundaryEntry .interrupt).cp0.excCode = 0#5) ∧
    (s.cp0.status.getLsbD 0 = false ∨ unmasked = 0#8 → s.event s.fetch ≠ some .interrupt)

/-- A pending NmI is taken at a boundary, whatever IEc and the masks are: vector 0xBFC0_0000, NmI set, Halt and Doze
cleared, the stacks of Status and Cache pushed, EPC written, the latch cleared; every other bit of Status, Cache and
Config, Cause.Sw, BadVAddr, Debug and DEPC are kept. That the stacks are pushed is the reading of D26, and the log entry
30 says so (R445, R465). -/
def Obligations.NmiIsTaken : Prop :=
  ∀ (s : State) (w : Word), s.platform.schedule = [] → s.cp0.stopped = false → s.inDebug = false →
    s.singleStepDue = false → s.hidden.late = [] → s.hidden.nmiPending = true →
    s.fetch = .word w → Decoded.isSdbbp (decode w) = false →
    ∃ t, step s = .next t ∧ t.pc = 0xBFC00000#32 ∧ t.nextPc = 0xBFC00004#32 ∧ t.slot = .none ∧
      t.hidden.nmiPending = false ∧ t.hidden.late = [] ∧ t.hidden.divBusy = s.hidden.divBusy ∧ SameRegisters s t ∧
      SameHiLo s t ∧ SameMemory s t ∧ t.platform = s.platform ∧
      t.cp0.status.getLsbD 20 = true ∧ t.cp0.status.extractLsb' 0 6 = s.cp0.status.extractLsb' 0 4 ++ 0#2 ∧
      t.cp0.status &&& 0xFFEFFFC0#32 = s.cp0.status &&& 0xFFEFFFC0#32 ∧
      t.cp0.cache.extractLsb' 8 6 = s.cp0.cache.extractLsb' 8 4 ++ 0#2 ∧
      t.cp0.cache &&& 0xFFFFC0FF#32 = s.cp0.cache &&& 0xFFFFC0FF#32 ∧
      t.cp0.config = s.cp0.config &&& 0xFFFFFCFF#32 ∧ t.cp0.sw = s.cp0.sw ∧ t.cp0.badVAddr = s.cp0.badVAddr ∧
      t.cp0.debugReg = s.cp0.debugReg ∧ t.cp0.depc = s.cp0.depc ∧
      (s.slot = .none → t.cp0.epc = s.pc ∧ t.cp0.bd = false) ∧
      ∀ a taken, s.slot = .branch a taken → t.cp0.epc = a ∧ t.cp0.bd = true

/-- With SSt set, outside a debug handler and a delay slot, and with no other event, the step is the Single Step
exception and the instruction is not executed (R470, R474). The model's own part in it is log entries 16, 33. -/
def Obligations.SingleStepIsTaken : Prop :=
  ∀ s : State, s.platform.schedule = [] → s.cp0.stopped = false → s.inDebug = false → s.cp0.debugReg.sst = true →
    s.slot = .none → s.hidden.ssSuppressed = false → s.event s.fetch = none →
    ∃ t, step s = .next t ∧ t.pc = 0xBFC00200#32 ∧ SameRegisters s t ∧ SameHiLo s t ∧ SameMemory s t ∧
      t.platform = s.platform ∧ KeepsPending s t ∧
      t.cp0 = { s.cp0 with
        depc := s.pc
        debugReg := { s.cp0.debugReg with dbd := false, dm := true, dss := true, dbp := false, nis := false, oes := false } }

/-- A debug exception due at the same boundary as another event: the debug handler is entered, and the registers are
those of the event's own entry, with the Debug bits NIS for an NmI and OES for any other; DEPC is the vector
of the event (D29), but the address of the instruction beside a fetch Address Error (R477): that D29 goes before the
general sentence of R477 is the model's reading, log entry 32. Single Step comes before Debug Breakpoint, and a fetch Bus
Error is taken alone (R477, D29). That the fetch of the SDBBP leaves no trace there is log entry 62. -/
def Obligations.DebugMeetsEvent : Prop :=
  ∀ (s : State) (e : Event), s.platform.schedule = [] → s.cp0.stopped = false → s.inDebug = false →
    s.event s.fetch = some e →
    let entered : State := s.enterEvent e
    let meets (singleStep : Bool) (victim : Word) (dbd : Bool) : Prop :=
      ∃ t, step s = .next t ∧ t.pc = 0xBFC00200#32 ∧ t.nextPc = 0xBFC00204#32 ∧ t.slot = .none ∧ SameRegisters s t ∧
        SameHiLo s t ∧ SameMemory s t ∧ t.platform = s.platform ∧ t.hidden.nmiPending = entered.hidden.nmiPending ∧
        t.hidden.late = entered.hidden.late ∧
        t.cp0 = { entered.cp0 with
          depc := if e = .addressFetch then victim else entered.pc
          debugReg := { s.cp0.debugReg with
            dbd := dbd, dm := true, dss := singleStep, dbp := !singleStep, nis := e = .nmi, oes := e ≠ .nmi } }
    (e = .nmi → entered.pc = 0xBFC00000#32) ∧
    (e ≠ .nmi → s.hidden.windows.bev1 = false → VectorBy (s.cp0.status.getLsbD 22) entered) ∧
    (e = .busErrorFetch → step s = .next entered) ∧
    (e ≠ .busErrorFetch → s.singleStepDue = true → meets true s.pc false) ∧
    (∀ w, s.singleStepDue = false → s.fetch = .word w → Decoded.isSdbbp (decode w) = true →
      (s.slot = .none → meets false s.pc false) ∧ ∀ a taken, s.slot = .branch a taken → meets false a true)

/-- A fetch from a misaligned address, or from a kernel address in user mode, takes the Address Error with the pc in
BadVAddr (R108, R112, R445). A fetch whose transaction, uncached or of a line that the instruction cache does not hold,
reads a word that answers a bus error takes the Bus Error with code 6, before any other event; EPC and BD are open, the
write buffer has been drained, and the vector is the one of BEV, even right after a write of it (R98, R150, R460 to
R462, R527, D10, D27, D29). The model's own part in it is log entries 8, 26. -/
def Obligations.FetchExceptions : Prop :=
  ∀ s : State, s.platform.schedule = [] → s.cp0.stopped = false → s.inDebug = false →
    (s.singleStepDue = false → s.hidden.late = [] → s.hidden.nmiPending = false →
      (s.pc.toNat % 4 ≠ 0 ∨ s.userMode = true ∧ 2 ^ 31 ≤ s.pc.toNat) →
      step s = .next (s.boundaryEntry (.addressLoad s.pc)) ∧
        (s.boundaryEntry (.addressLoad s.pc)).cp0.badVAddr = s.pc ∧
        (s.boundaryEntry (.addressLoad s.pc)).cp0.excCode = 4#5) ∧
    (let a := accessWord s.pc
     let through := fetchThrough (segmentMap s.pc) s.hidden.iceSample
     s.pc.toNat % 4 = 0 → s.kernelAddressInUserMode s.pc = false →
      (through = false ∨ s.instructionLine (a / 16) = none) →
      (∃ b ∈ s.fetchBlock a through, s.platform.readFails b = true) →
      ∃ t, step s = .next t ∧ Enters s t .busErrorFetch ∧ t.cp0.excCode = 6#5 ∧
        VectorBy (s.cp0.status.getLsbD 22) t ∧ t.memory.buffer = [] ∧
        ∀ x, Memory.read t.memory.bytes x = s.busByte x)

/-- A load whose read gets a bus error completes with some value in its register. Outside a debug handler the error is
remembered, and if SYNC follows at once, the Data Bus Error is taken at the SYNC (R461, R462); in a debug handler it sets
Debug.BsF instead (R473). The model's own part in it is log entry 16. -/
def Obligations.LateBusError : Prop :=
  (∀ (s : State) (base rt : RegIndex) (offset : BitVec 16),
    let v := s.reg base + offset.signExtend 32
    let fails (unaligned : Word → Bool) (i : Instr) : Prop :=
      s.accessAllowed unaligned v = true →
      ∃ t x, exec i s = .next t ∧ OnlyRegister s t rt x ∧ SameHiLo s t ∧ Sequential s t ∧ SameMemory s t ∧
        t.platform = s.platform ∧
        (s.inDebug = false → t.cp0 = s.accessCp0 ∧
          t.hidden = { s.settledHidden t with
            late := s.agedLate ++ [{ rt, single := (s.readTransaction v).length = 1, fresh := true }] }) ∧
        (s.inDebug = true → t.hidden = s.settledHidden t ∧
          t.cp0 = { s.accessCp0 with debugReg := { s.accessCp0.debugReg with bsf := true } })
    s.foundLine v = none → (∃ a ∈ s.readTransaction v, s.platform.readFails a = true) →
    fails unaligned1 (.lb base rt offset) ∧ fails unaligned1 (.lbu base rt offset) ∧
    fails unaligned2 (.lh base rt offset) ∧ fails unaligned2 (.lhu base rt offset) ∧
    fails unaligned4 (.lw base rt offset) ∧ fails unaligned1 (.lwl base rt offset) ∧
    fails unaligned1 (.lwr base rt offset)) ∧
  ∀ (s : State) (w : Word) (e : LateError), s.platform.schedule = [] → s.cp0.stopped = false → s.inDebug = false →
    s.singleStepDue = false → s.hidden.late = [e] → e.fresh = true → s.fetch = .word w → decode w = .instr .sync →
    s.slot = .none →
    ∃ t, step s = .next t ∧ t.cp0.excCode = 7#5 ∧ t.cp0.epc = s.pc ∧ t.cp0.bd = false ∧ t.hidden.late = [] ∧
      SameRegisters s t ∧ t.cp0.badVAddr = s.cp0.badVAddr

/-- In Halt or Doze nothing happens until an interrupt line is active; then both bits are cleared, even with the
interrupt masked or Config locked, and nothing else (R480, R482, R67). A falling edge of the NMI input sets the latch
and, in Halt or Doze, clears both bits, and does nothing else (R95, R465, R482). The other inputs take their levels and do
nothing else (R51, R362, R460); the oldest buffered write reaches memory, where it is RAM, and the devices, and no byte
changes as the core sees it (R131, D10). The model's own part in it is log entries 11, 18, 19, 27, 41. -/
def Obligations.StoppedCoreAndPlatformMoves : Prop :=
  (∀ s : State, s.platform.schedule = [] → (s.cp0.config.getLsbD 8 = true ∨ s.cp0.config.getLsbD 9 = true) →
    (s.platform.intLines = 0#6 → step s = .next s) ∧
    (s.platform.intLines ≠ 0#6 → ∃ t, step s = .next t ∧
      t = { s with cp0 := { s.cp0 with config := t.cp0.config } } ∧
      t.cp0.config = s.cp0.config &&& 0xFFFFFCFF#32)) ∧
  ∀ (s : State) (rest : List PlatformMove),
    let p : Platform := { s.platform with schedule := rest }
    let next (m : PlatformMove) : Prop := s.platform.schedule = m :: rest
    (next .nmiEdge → step s = .next { s with
      cp0 := { s.cp0 with config := s.cp0.config &&& 0xFFFFFCFF#32 }
      hidden := { s.hidden with nmiPending := true }
      platform := p }) ∧
    (∀ lines, next (.setInterruptLines lines) → step s = .next { s with platform := { p with intLines := lines } }) ∧
    (∀ levels, next (.setConditions levels) → step s = .next { s with platform := { p with coc := levels } }) ∧
    (∀ words, next (.setBusErrors words) → step s = .next { s with platform := { p with busErrors := words } }) ∧
    (next .busWrite → s.memory.buffer = [] → step s = .next { s with platform := p }) ∧
    (∀ cells later, next .busWrite → s.memory.buffer = cells :: later → s.Inv →
      let seen := cells.filter fun c => s.platform.isDevice c.1
      ∃ t, step s = .next t ∧
        t = { s with
          memory := { s.memory with bytes := t.memory.bytes, buffer := later, devices := t.memory.devices }
          platform := p } ∧
        (∀ a, Memory.read t.memory.bytes a =
          match cells.reverse.find? (fun c => c.1 == a) with
          | some c => if s.platform.isRam a then c.2 else Memory.read s.memory.bytes a
          | none => Memory.read s.memory.bytes a) ∧
        t.memory.devices = s.memory.devices ++ (if seen = [] then [] else [.store seen]) ∧
        (∀ a, t.busByte a = s.busByte a) ∧ t.drainedDevices = s.drainedDevices)

/-- Reset, in any state: the pc and the register fields with a stated reset value take it; memory keeps its bytes,
buffered writes are lost, and all lines of both caches are invalid, those of the data cache unlocked (R98, R500, R501,
R502, D6).
The model's own part in it is log entry 13. -/
def Obligations.ResetMove : Prop :=
  ∀ (s : State) (big : Bool) (rest : List PlatformMove), s.platform.schedule = .reset big :: rest →
    ∃ t, step s = .next t ∧ t.pc = 0xBFC00000#32 ∧ t.nextPc = 0xBFC00004#32 ∧ t.slot = .none ∧ t.reg 0#5 = 0#32 ∧
      t.cp0.status &&& 0x0DFF00C3#32 = 0x00400000#32 ∧ t.cp0.cause &&& 0x4FFFFC83#32 = 0#32 ∧
      t.cp0.config = (s.platform.product.ics.setWidth 32 <<< 19) ||| (s.platform.product.dcs.setWidth 32 <<< 16) |||
        0x30#32 ∧
      t.cp0.cache &&& 0xFFFFC0FF#32 = 0#32 ∧ t.cp0.debugReg.dm = false ∧ t.cp0.debugReg.sst = false ∧
      t.memory.bytes = s.memory.bytes ∧ t.memory.buffer = [] ∧
      (∀ i, (t.readSet i).way0.valid = false ∧ (t.readSet i).way1.valid = false ∧ (t.readSet i).way0.lock = false ∧
        (t.readSet i).way1.lock = false) ∧
      (∀ line, t.instructionLine line = none) ∧ (∀ word, t.isStale word true = false) ∧
      t.hidden.divBusy = false ∧ t.hidden.late = [] ∧ t.hidden.nmiPending = false ∧ t.hidden.hiloReadAge = 2 ∧
      t.hidden.cocPrev = s.platform.coc ∧ t.hidden.ssSuppressed = false ∧
      t.platform.product.bigEndianMem = big ∧ t.platform.schedule = rest

/-- A write by an external master changes that byte of memory only; an unlocked line of the data cache that holds the
word becomes invalid and is the next to be replaced, a locked one stays; in Halt there is no snoop (R142, R152,
R481). The model's own part in it is log entries 21, 24, 57, 61. -/
def Obligations.ExternalWriteIsSnooped : Prop :=
  ∀ (s : State) (a : Nat) (b : Byte) (rest : List PlatformMove), s.Inv → a < 2 ^ 32 →
    s.platform.schedule = .externalWrite a b :: rest → s.platform.isRam a = true →
    ∃ t, step s = .next t ∧ SameRegisters s t ∧ SameHiLo s t ∧ t.cp0 = s.cp0 ∧ t.pc = s.pc ∧
      t.hidden = s.hidden ∧ (∀ x, Memory.read t.memory.bytes x = if x = a then b else Memory.read s.memory.bytes x) ∧
      (s.cp0.halt = true → t.memory.dcache = s.memory.dcache) ∧
      (s.cp0.halt = false → ∀ w, s.hitWay (a / 4 * 4) = some w →
        let i := s.setIndex (a / 4 * 4)
        let old := s.readSet i
        ((old.way w).lock = true → t.memory.dcache = s.memory.dcache) ∧
        ((old.way w).lock = false → ((t.readSet i).way w).valid = false ∧ (t.readSet i).lru = s.lruFor w ∧
          (t.readSet i).way (!w) = old.way (!w))) ∧
      (s.hitWay (a / 4 * 4) = none → t.memory.dcache = s.memory.dcache)

/-! What user mode cannot do. -/

/-- In user mode with CP0 not usable, no instruction changes any CP0 register, but by the entry to an exception (R42,
R112, R350, R430, R470). The model's own part in it is log entry 34. -/
def Obligations.UserModeKeepsCp0 : Prop :=
  ∀ (i : Instr) (s t : State), s.userMode = true → s.usable 0#2 = false → exec i s = .next t →
    t.cp0 = s.cp0 ∨ (∃ e, t = s.exceptionEntry e) ∨ t = s.debugEntry false false false

/-- In user mode no instruction changes a byte of memory outside the 2 Gbyte of physical addresses to which kuseg is
mapped (R111, R112). The model's own part in it is log entry 19. -/
def Obligations.UserModeStoresStayInKuseg : Prop :=
  ∀ (i : Instr) (s t : State), s.Inv → s.userMode = true → exec i s = .next t →
    ∀ a, a < 2 ^ 30 ∨ 3 * 2 ^ 30 ≤ a → t.busByte a = s.busByte a
end

