-- ==== Sys2Proof/Laws/Bits.lean ====
section
/-! SUPPORT. The bits of the masked writes and of the exception stacks. -/

namespace Sys2Proof.Machine

theorem maskWrite_getLsbD (mask old new : Word) (i : Nat) :
    (maskWrite mask old new).getLsbD i = if mask.getLsbD i then new.getLsbD i else old.getLsbD i := by
  unfold maskWrite
  by_cases h : i < 32
  · simp only [BitVec.getLsbD_or, BitVec.getLsbD_and, BitVec.getLsbD_not, h, decide_true, Bool.true_and]
    cases mask.getLsbD i <;> simp
  · simp [BitVec.getLsbD_of_ge _ i (by omega : 32 ≤ i)]

/-- A field write replaces the bits of the field and no other. -/
theorem setBits_getLsbD (lo : Nat) {n : Nat} (v : BitVec n) (old : Word) (i : Nat) (h : i < 32) :
    (setBits lo v old).getLsbD i = if lo ≤ i ∧ i < lo + n then v.getLsbD (i - lo) else old.getLsbD i := by
  unfold setBits
  rw [maskWrite_getLsbD]
  by_cases h1 : lo ≤ i
  · by_cases h2 : i < lo + n
    · have h3 : i - lo < n := by omega
      have h4 : ¬i < lo := by omega
      simp [h, h1, h2, h3, h4]
    · have h3 : ¬i - lo < n := by omega
      simp [h1, h2, h3]
  · have h4 : i < lo := by omega
    simp [h1, h4]

/-- `withBit` writes one bit. -/
theorem withBit_getLsbD {n : Nat} (v : BitVec n) (i j : Nat) (b : Bool) (h : i < n) :
    (withBit v i b).getLsbD j = if j = i then b else v.getLsbD j := by
  unfold withBit
  by_cases hj : j < n
  · cases b <;> by_cases hji : j = i <;> simp [hj, hji] <;> omega
  · have : j ≠ i := by omega
    simp [BitVec.getLsbD_of_ge _ j (by omega : n ≤ j), this]

theorem bitAt_getLsbD (p : Nat) (b : Bool) (i : Nat) (h : i < 32) : (bitAt p b).getLsbD i = (b && decide (i = p)) := by
  unfold bitAt
  cases b
  · simp
  · have : (1#32 <<< p).getLsbD i = decide (i = p) := by
      rw [BitVec.getLsbD_shiftLeft]
      by_cases h1 : i = p
      · subst h1; simp [h]
      · by_cases h2 : i < p
        · simp [h2, h1]
        · have : i - p ≠ 0 := by omega
          simp [h2, h1, BitVec.getLsbD_one, this]
    simpa using this

theorem pushed_getLsbD (x : BitVec 4) (i : Nat) :
    BitVec.getLsbD (w := 6) (x ++ 0#2) i = if i < 2 then false else x.getLsbD (i - 2) := by
  have h := BitVec.getLsbD_append (x := x) (y := 0#2) (i := i)
  by_cases hi : i < 2
  · simpa [hi] using h
  · simpa [hi] using h

theorem pushStatus_getLsbD (w : Word) (i : Nat) (h : i < 32) :
    (pushStatus w).getLsbD i = if i < 2 then false else if i < 6 then w.getLsbD (i - 2) else w.getLsbD i := by
  unfold pushStatus
  rw [setBits_getLsbD _ _ _ _ h, pushed_getLsbD]
  by_cases h1 : i < 2
  · have : i < 6 := by omega
    simp [h1, this]
  · by_cases h2 : i < 6
    · have : i - 2 < 4 := by omega
      simp [h1, h2, this]
    · simp [h1, h2]

theorem pushCache_getLsbD (w : Word) (i : Nat) (h : i < 32) :
    (pushCache w).getLsbD i =
      if 8 ≤ i ∧ i < 10 then false else if 8 ≤ i ∧ i < 14 then w.getLsbD (i - 2) else w.getLsbD i := by
  unfold pushCache
  rw [setBits_getLsbD _ _ _ _ h, pushed_getLsbD]
  by_cases h0 : 8 ≤ i
  · by_cases h1 : i < 10
    · have h2 : i < 14 := by omega
      have h3 : i - 8 < 2 := by omega
      simp [h0, h1, h2, h3]
    · by_cases h2 : i < 14
      · have h3 : ¬i - 8 < 2 := by omega
        have h4 : i - 8 - 2 < 4 := by omega
        have h5 : 8 + (i - 8 - 2) = i - 2 := by omega
        simp [h0, h1, h2, h3, h4, h5]
      · simp [h0, h1, h2]
  · simp [h0]

theorem popStatus_getLsbD (w : Word) (i : Nat) (h : i < 32) :
    (popStatus w).getLsbD i = if i < 4 then w.getLsbD (i + 2) else w.getLsbD i := by
  unfold popStatus
  rw [setBits_getLsbD _ _ _ _ h]
  by_cases h1 : i < 4
  · simp [h1, Nat.add_comm]
  · simp [h1]

theorem popCache_getLsbD (w : Word) (i : Nat) (h : i < 32) :
    (popCache w).getLsbD i = if 8 ≤ i ∧ i < 12 then w.getLsbD (i + 2) else w.getLsbD i := by
  unfold popCache
  rw [setBits_getLsbD _ _ _ _ h]
  by_cases h0 : 8 ≤ i
  · by_cases h1 : i < 12
    · have h2 : i - 8 < 4 := by omega
      have h3 : 10 + (i - 8) = i + 2 := by omega
      simp [h0, h1, h2, h3]
    · simp [h0, h1]
  · simp [h0]

end Sys2Proof.Machine
end

