-- ==== Sys2Proof/Laws/Encoding.lean ====
section
/-! SUPPORT. The fields of the words that the encoder joins (R161 to R165). -/

namespace Sys2Proof

theorem append_toNat {m n : Nat} (x : BitVec m) (y : BitVec n) : (x ++ y).toNat = x.toNat * 2 ^ n + y.toNat := by
  rw [BitVec.toNat_append, ← Nat.shiftLeft_add_eq_or_of_lt y.isLt, Nat.shiftLeft_eq]

theorem joinI_toNat (op : BitVec 6) (rs rt : RegIndex) (imm : BitVec 16) :
    (joinI op rs rt imm).toNat = ((op.toNat * 2 ^ 5 + rs.toNat) * 2 ^ 5 + rt.toNat) * 2 ^ 16 + imm.toNat := by
  unfold joinI
  erw [append_toNat, append_toNat, append_toNat]

theorem joinJ_toNat (op : BitVec 6) (target : BitVec 26) :
    (joinJ op target).toNat = op.toNat * 2 ^ 26 + target.toNat := by
  unfold joinJ
  erw [append_toNat]

theorem joinR_toNat (op : BitVec 6) (rs rt rd : RegIndex) (sa : BitVec 5) (funct : BitVec 6) :
    (joinR op rs rt rd sa funct).toNat =
      ((((op.toNat * 2 ^ 5 + rs.toNat) * 2 ^ 5 + rt.toNat) * 2 ^ 5 + rd.toNat) * 2 ^ 5 + sa.toNat) * 2 ^ 6 +
        funct.toNat := by
  unfold joinR
  erw [append_toNat, append_toNat, append_toNat, append_toNat, append_toNat]

theorem joinCode_toNat (op : BitVec 6) (code : BitVec 20) (funct : BitVec 6) :
    (joinCode op code funct).toNat = (op.toNat * 2 ^ 20 + code.toNat) * 2 ^ 6 + funct.toNat := by
  unfold joinCode
  erw [append_toNat, append_toNat]

theorem joinCop_toNat (op : BitVec 6) (cofun : BitVec 25) :
    (joinCop op cofun).toNat = (op.toNat * 2 + 1) * 2 ^ 25 + cofun.toNat := by
  unfold joinCop
  erw [append_toNat, append_toNat]
  rfl

theorem extract_toNat (w : Word) (lo n : Nat) : (w.extractLsb' lo n).toNat = w.toNat / 2 ^ lo % 2 ^ n := by
  rw [BitVec.extractLsb'_toNat, Nat.shiftRight_eq_div_pow]

section I
variable (op : BitVec 6) (rs rt : RegIndex) (imm : BitVec 16)

@[simp] theorem opField_joinI : opField (joinI op rs rt imm) = op := by
  apply BitVec.eq_of_toNat_eq; rw [opField, extract_toNat, joinI_toNat]; omega
@[simp] theorem rsField_joinI : rsField (joinI op rs rt imm) = rs := by
  apply BitVec.eq_of_toNat_eq; rw [rsField, extract_toNat, joinI_toNat]; omega
@[simp] theorem rtField_joinI : rtField (joinI op rs rt imm) = rt := by
  apply BitVec.eq_of_toNat_eq; rw [rtField, extract_toNat, joinI_toNat]; omega
@[simp] theorem immField_joinI : immField (joinI op rs rt imm) = imm := by
  apply BitVec.eq_of_toNat_eq; rw [immField, extract_toNat, joinI_toNat]; omega

end I

section J
variable (op : BitVec 6) (target : BitVec 26)

@[simp] theorem opField_joinJ : opField (joinJ op target) = op := by
  apply BitVec.eq_of_toNat_eq; rw [opField, extract_toNat, joinJ_toNat]; omega
@[simp] theorem targetField_joinJ : targetField (joinJ op target) = target := by
  apply BitVec.eq_of_toNat_eq; rw [targetField, extract_toNat, joinJ_toNat]; omega

end J

section R
variable (op : BitVec 6) (rs rt rd : RegIndex) (sa : BitVec 5) (funct : BitVec 6)

@[simp] theorem opField_joinR : opField (joinR op rs rt rd sa funct) = op := by
  apply BitVec.eq_of_toNat_eq; rw [opField, extract_toNat, joinR_toNat]; omega
@[simp] theorem rsField_joinR : rsField (joinR op rs rt rd sa funct) = rs := by
  apply BitVec.eq_of_toNat_eq; rw [rsField, extract_toNat, joinR_toNat]; omega
@[simp] theorem rtField_joinR : rtField (joinR op rs rt rd sa funct) = rt := by
  apply BitVec.eq_of_toNat_eq; rw [rtField, extract_toNat, joinR_toNat]; omega
@[simp] theorem rdField_joinR : rdField (joinR op rs rt rd sa funct) = rd := by
  apply BitVec.eq_of_toNat_eq; rw [rdField, extract_toNat, joinR_toNat]; omega
@[simp] theorem saField_joinR : saField (joinR op rs rt rd sa funct) = sa := by
  apply BitVec.eq_of_toNat_eq; rw [saField, extract_toNat, joinR_toNat]; omega
@[simp] theorem functField_joinR : functField (joinR op rs rt rd sa funct) = funct := by
  apply BitVec.eq_of_toNat_eq; rw [functField, extract_toNat, joinR_toNat]; omega

/-- Bits 10:0, the "0" field of the coprocessor moves. -/
theorem lowField_joinR : (joinR op rs rt rd sa funct).extractLsb' 0 11 = sa ++ funct := by
  apply BitVec.eq_of_toNat_eq; rw [extract_toNat, joinR_toNat, append_toNat]; omega

/-- Bits 24:6, the "0" field of the CP0 functions. -/
theorem midField_joinR :
    ((joinR op rs rt rd sa funct).extractLsb' 6 19).toNat =
      ((rs.toNat % 2 ^ 4 * 2 ^ 5 + rt.toNat) * 2 ^ 5 + rd.toNat) * 2 ^ 5 + sa.toNat := by
  rw [extract_toNat, joinR_toNat]; omega

/-- Bit 25 is the high bit of the rs field. -/
theorem bit25_joinR : (joinR op rs rt rd sa funct).getLsbD 25 = rs.msb := by
  rw [BitVec.msb_eq_decide, BitVec.getLsbD, joinR_toNat, Nat.testBit_eq_decide_div_mod_eq]
  congr 1; apply propext; constructor <;> intro h <;> omega

end R

section Code
variable (op : BitVec 6) (code : BitVec 20) (funct : BitVec 6)

@[simp] theorem opField_joinCode : opField (joinCode op code funct) = op := by
  apply BitVec.eq_of_toNat_eq; rw [opField, extract_toNat, joinCode_toNat]; omega
@[simp] theorem codeField_joinCode : codeField (joinCode op code funct) = code := by
  apply BitVec.eq_of_toNat_eq; rw [codeField, extract_toNat, joinCode_toNat]; omega
@[simp] theorem functField_joinCode : functField (joinCode op code funct) = funct := by
  apply BitVec.eq_of_toNat_eq; rw [functField, extract_toNat, joinCode_toNat]; omega

end Code

section Cop
variable (op : BitVec 6) (cofun : BitVec 25)

@[simp] theorem opField_joinCop : opField (joinCop op cofun) = op := by
  apply BitVec.eq_of_toNat_eq; rw [opField, extract_toNat, joinCop_toNat]; omega
@[simp] theorem cofunField_joinCop : cofunField (joinCop op cofun) = cofun := by
  apply BitVec.eq_of_toNat_eq; rw [cofunField, extract_toNat, joinCop_toNat]; omega

/-- The rs field of a coprocessor operation is 16 or more: it is none of the moves and branches. -/
theorem rsField_joinCop : 16 ≤ (rsField (joinCop op cofun)).toNat := by
  rw [rsField, extract_toNat, joinCop_toNat]; omega

theorem bit25_joinCop : (joinCop op cofun).getLsbD 25 = true := by
  rw [BitVec.getLsbD, joinCop_toNat, Nat.testBit_eq_decide_div_mod_eq]
  apply decide_eq_true; omega

end Cop

end Sys2Proof
end

