-- ==== Sys2Proof/Laws/Sparse.lean ====
section
/-! SUPPORT. The laws of data by key: a read after a write, and the canonical form. -/

namespace Sys2Proof.Machine

variable {α : Type} [DecidableEq α] {d : α}

/-- A key below the first one is not listed. -/
theorem Sparse.read_below {l : List (Nat × α)} {low a : Nat} (h : Sparse.wfFrom d low l = true) (ha : a < low) :
    Sparse.read d l a = d := by
  induction l generalizing low with
  | nil => rfl
  | cons x rest ih =>
    obtain ⟨k, v⟩ := x
    simp only [Sparse.wfFrom, Bool.and_eq_true, decide_eq_true_eq] at h
    have : k ≠ a := by omega
    simp only [Sparse.read, this, if_false]
    exact ih h.2 (by omega)

/-- Reading after a write: the written key gives the value, every other key what it gave before. -/
theorem Sparse.read_write {l : List (Nat × α)} {low : Nat} (h : Sparse.wfFrom d low l = true) (a b : Nat) (v : α) :
    Sparse.read d (Sparse.write d l a v) b = if b = a then v else Sparse.read d l b := by
  induction l generalizing low with
  | nil =>
    by_cases hv : v = d <;> simp [Sparse.write, hv, Sparse.read, eq_comm]
  | cons x rest ih =>
    obtain ⟨k, w⟩ := x
    simp only [Sparse.wfFrom, Bool.and_eq_true, decide_eq_true_eq] at h
    obtain ⟨⟨_, _⟩, hr⟩ := h
    simp only [Sparse.write]
    split
    · split
      · subst v; split
        · subst b
          have : k ≠ a := by omega
          simp only [Sparse.read, this, if_false]
          exact Sparse.read_below hr (by omega)
        · rfl
      · simp only [Sparse.read, eq_comm (a := a)]
    · split
      · subst a; split
        · subst v; by_cases hb : b = k
          · subst b; simpa using Sparse.read_below hr (by omega)
          · simp [Sparse.read, hb, eq_comm]
        · by_cases hb : b = k <;> simp [Sparse.read, hb, eq_comm]
      · simp only [Sparse.read, ih hr]
        by_cases hk : k = b
        · subst hk
          have : k ≠ a := by omega
          simp [this]
        · simp [hk]

theorem Sparse.wfFrom_weaken {l : List (Nat × α)} {low low' : Nat} (h : Sparse.wfFrom d low l = true) (hl : low' ≤ low) :
    Sparse.wfFrom d low' l = true := by
  cases l with
  | nil => rfl
  | cons x rest =>
    obtain ⟨k, v⟩ := x
    simp only [Sparse.wfFrom, Bool.and_eq_true, decide_eq_true_eq] at h ⊢
    exact ⟨⟨by omega, h.1.2⟩, h.2⟩

theorem Sparse.write_wfFrom {l : List (Nat × α)} {low : Nat} (h : Sparse.wfFrom d low l = true) (a : Nat) (v : α)
    (ha : low ≤ a) : Sparse.wfFrom d low (Sparse.write d l a v) = true := by
  induction l generalizing low with
  | nil => by_cases hv : v = d <;> simp [Sparse.write, hv, Sparse.wfFrom, ha]
  | cons x rest ih =>
    obtain ⟨k, w⟩ := x
    have h0 := h
    simp only [Sparse.wfFrom, Bool.and_eq_true, decide_eq_true_eq] at h
    obtain ⟨⟨hk, hw⟩, hr⟩ := h
    simp only [Sparse.write]
    split
    · split
      · exact h0
      · rename_i hlt hv
        simp only [Sparse.wfFrom, Bool.and_eq_true, decide_eq_true_eq]
        exact ⟨⟨ha, hv⟩, ⟨by omega, hw⟩, hr⟩
    · split
      · split
        · exact Sparse.wfFrom_weaken hr (by omega)
        · rename_i hv
          subst a
          simp only [Sparse.wfFrom, Bool.and_eq_true, decide_eq_true_eq]
          exact ⟨⟨hk, hv⟩, hr⟩
      · simp only [Sparse.wfFrom, Bool.and_eq_true, decide_eq_true_eq]
        exact ⟨⟨hk, hw⟩, ih hr (by omega)⟩

/-- A write keeps the canonical form. -/
theorem Sparse.write_wf {l : List (Nat × α)} (h : Sparse.wf d l = true) (a : Nat) (v : α) :
    Sparse.wf d (Sparse.write d l a v) = true := Sparse.write_wfFrom h a v (Nat.zero_le a)

/-- Two lists in canonical form that read alike are equal: equal data has one form. -/
theorem Sparse.wfFrom_ext {l m : List (Nat × α)} {low : Nat} (hl : Sparse.wfFrom d low l = true)
    (hm : Sparse.wfFrom d low m = true) (h : ∀ a, Sparse.read d l a = Sparse.read d m a) : l = m := by
  induction l generalizing m low with
  | nil =>
    cases m with
    | nil => rfl
    | cons y rest =>
      obtain ⟨k, v⟩ := y
      simp only [Sparse.wfFrom, Bool.and_eq_true, decide_eq_true_eq] at hm
      have := h k
      simp only [Sparse.read, if_true] at this
      exact absurd this.symm hm.1.2
  | cons x rest ih =>
    obtain ⟨k, v⟩ := x
    have hl' := hl
    simp only [Sparse.wfFrom, Bool.and_eq_true, decide_eq_true_eq] at hl
    cases m with
    | nil =>
      have := h k
      simp only [Sparse.read, if_true] at this
      exact absurd this hl.1.2
    | cons y rest' =>
      obtain ⟨k', v'⟩ := y
      have hm' := hm
      simp only [Sparse.wfFrom, Bool.and_eq_true, decide_eq_true_eq] at hm
      have hk : k = k' := by
        rcases Nat.lt_trichotomy k k' with hlt | heq | hgt
        · have e := h k
          have hne : k' ≠ k := by omega
          simp only [Sparse.read, hne, if_true, if_false] at e
          rw [Sparse.read_below hm.2 (by omega)] at e
          exact absurd e hl.1.2
        · exact heq
        · have e := h k'
          have hne : k ≠ k' := by omega
          simp only [Sparse.read, hne, if_true, if_false] at e
          rw [Sparse.read_below hl.2 (by omega)] at e
          exact absurd e.symm hm.1.2
      subst hk
      have hv : v = v' := by simpa [Sparse.read] using h k
      subst hv
      have : rest = rest' := by
        refine ih hl.2 hm.2 fun a => ?_
        by_cases ha : k = a
        · subst ha
          rw [Sparse.read_below hl.2 (by omega), Sparse.read_below hm.2 (by omega)]
        · simpa [Sparse.read, ha] using h a
      rw [this]

/-- Reading a list of which only the keys in `p` are kept. -/
theorem Sparse.read_filter {α : Type} [DecidableEq α] {d : α} {l : List (Nat × α)} {low : Nat}
    (h : Sparse.wfFrom d low l = true) (p : Nat → Bool) (a : Nat) :
    Sparse.read d (l.filter fun x => p x.1) a = if p a then Sparse.read d l a else d := by
  induction l generalizing low with
  | nil => simp [Sparse.read]
  | cons x rest ih =>
    obtain ⟨k, v⟩ := x
    simp only [Sparse.wfFrom, Bool.and_eq_true, decide_eq_true_eq] at h
    have ih' := ih h.2
    by_cases hk : p k = true
    · simp only [List.filter_cons, hk, if_true, Sparse.read]
      by_cases ha : k = a
      · subst ha; simp [hk]
      · simp only [ha, if_false]; exact ih'
    · simp only [List.filter_cons, hk]
      by_cases ha : k = a
      · subst ha
        simp only [Bool.false_eq_true, if_false] at *
        rw [ih']; simp [hk]
      · simp only [Sparse.read, ha, if_false]; exact ih'

/-- A filtered list stays canonical. -/
theorem Sparse.filter_wfFrom {α : Type} [DecidableEq α] {d : α} {l : List (Nat × α)} {low : Nat}
    (h : Sparse.wfFrom d low l = true) (p : Nat × α → Bool) : Sparse.wfFrom d low (l.filter p) = true := by
  induction l generalizing low with
  | nil => rfl
  | cons x rest ih =>
    obtain ⟨k, v⟩ := x
    have h0 := h
    simp only [Sparse.wfFrom, Bool.and_eq_true, decide_eq_true_eq] at h
    by_cases hk : p (k, v) = true
    · simp only [List.filter_cons, hk, if_true, Sparse.wfFrom, Bool.and_eq_true, decide_eq_true_eq]
      exact ⟨h.1, ih h.2⟩
    · simp only [List.filter_cons, hk]
      exact Sparse.wfFrom_weaken (ih h.2) (by omega)

end Sys2Proof.Machine
end

