-- ==== Sys2Proof/Laws/State.lean ====
section
/-! SUPPORT. What each state operation leaves as it was, field by field, so that no proof unfolds a record update; and
the few values that the operations write. -/

namespace Sys2Proof.Machine

/-! `State.writeReg`. -/
@[simp] theorem State.writeReg_pc (s : State) (i : RegIndex) (v : Word) : (s.writeReg i v).pc = s.pc := by
  simp only [State.writeReg]; repeat' split <;> try rfl
@[simp] theorem State.writeReg_nextPc (s : State) (i : RegIndex) (v : Word) : (s.writeReg i v).nextPc = s.nextPc := by
  simp only [State.writeReg]; repeat' split <;> try rfl
@[simp] theorem State.writeReg_slot (s : State) (i : RegIndex) (v : Word) : (s.writeReg i v).slot = s.slot := by
  simp only [State.writeReg]; repeat' split <;> try rfl
@[simp] theorem State.writeReg_hi (s : State) (i : RegIndex) (v : Word) : (s.writeReg i v).hi = s.hi := by
  simp only [State.writeReg]; repeat' split <;> try rfl
@[simp] theorem State.writeReg_lo (s : State) (i : RegIndex) (v : Word) : (s.writeReg i v).lo = s.lo := by
  simp only [State.writeReg]; repeat' split <;> try rfl
@[simp] theorem State.writeReg_cp0 (s : State) (i : RegIndex) (v : Word) : (s.writeReg i v).cp0 = s.cp0 := by
  simp only [State.writeReg]; repeat' split <;> try rfl
@[simp] theorem State.writeReg_hidden (s : State) (i : RegIndex) (v : Word) : (s.writeReg i v).hidden = s.hidden := by
  simp only [State.writeReg]; repeat' split <;> try rfl
@[simp] theorem State.writeReg_platform (s : State) (i : RegIndex) (v : Word) : (s.writeReg i v).platform = s.platform := by
  simp only [State.writeReg]; repeat' split <;> try rfl
@[simp] theorem State.writeReg_draws (s : State) (i : RegIndex) (v : Word) : (s.writeReg i v).draws = s.draws := by
  simp only [State.writeReg]; repeat' split <;> try rfl
@[simp] theorem State.writeReg_bytes (s : State) (i : RegIndex) (v : Word) : (s.writeReg i v).memory.bytes = s.memory.bytes := by
  simp only [State.writeReg]; repeat' split <;> try rfl
@[simp] theorem State.writeReg_buffer (s : State) (i : RegIndex) (v : Word) : (s.writeReg i v).memory.buffer = s.memory.buffer := by
  simp only [State.writeReg]; repeat' split <;> try rfl
@[simp] theorem State.writeReg_dcache (s : State) (i : RegIndex) (v : Word) : (s.writeReg i v).memory.dcache = s.memory.dcache := by
  simp only [State.writeReg]; repeat' split <;> try rfl
@[simp] theorem State.writeReg_lru (s : State) (i : RegIndex) (v : Word) : (s.writeReg i v).memory.lru = s.memory.lru := by
  simp only [State.writeReg]; repeat' split <;> try rfl
@[simp] theorem State.writeReg_icache (s : State) (i : RegIndex) (v : Word) : (s.writeReg i v).memory.icache = s.memory.icache := by
  simp only [State.writeReg]; repeat' split <;> try rfl
@[simp] theorem State.writeReg_stale (s : State) (i : RegIndex) (v : Word) : (s.writeReg i v).memory.stale = s.memory.stale := by
  simp only [State.writeReg]; repeat' split <;> try rfl
@[simp] theorem State.writeReg_devices (s : State) (i : RegIndex) (v : Word) : (s.writeReg i v).memory.devices = s.memory.devices := by
  simp only [State.writeReg]; repeat' split <;> try rfl
@[simp] theorem State.writeReg_drainedDevices (s : State) (i : RegIndex) (v : Word) : (s.writeReg i v).drainedDevices = s.drainedDevices := by
  simp only [State.writeReg]; repeat' split <;> try rfl
@[simp] theorem State.writeReg_busByte (s : State) (i : RegIndex) (v : Word) (a : Nat) : (s.writeReg i v).busByte a = s.busByte a := by
  simp only [State.writeReg]; repeat' split <;> try rfl

/-! `State.link`. -/
@[simp] theorem State.link_pc (s : State) : (s.link).pc = s.pc := by
  unfold State.link; simp
@[simp] theorem State.link_nextPc (s : State) : (s.link).nextPc = s.nextPc := by
  unfold State.link; simp
@[simp] theorem State.link_slot (s : State) : (s.link).slot = s.slot := by
  unfold State.link; simp
@[simp] theorem State.link_hi (s : State) : (s.link).hi = s.hi := by
  unfold State.link; simp
@[simp] theorem State.link_lo (s : State) : (s.link).lo = s.lo := by
  unfold State.link; simp
@[simp] theorem State.link_cp0 (s : State) : (s.link).cp0 = s.cp0 := by
  unfold State.link; simp
@[simp] theorem State.link_hidden (s : State) : (s.link).hidden = s.hidden := by
  unfold State.link; simp
@[simp] theorem State.link_platform (s : State) : (s.link).platform = s.platform := by
  unfold State.link; simp
@[simp] theorem State.link_draws (s : State) : (s.link).draws = s.draws := by
  unfold State.link; simp
@[simp] theorem State.link_bytes (s : State) : (s.link).memory.bytes = s.memory.bytes := by
  unfold State.link; simp
@[simp] theorem State.link_buffer (s : State) : (s.link).memory.buffer = s.memory.buffer := by
  unfold State.link; simp
@[simp] theorem State.link_dcache (s : State) : (s.link).memory.dcache = s.memory.dcache := by
  unfold State.link; simp
@[simp] theorem State.link_lru (s : State) : (s.link).memory.lru = s.memory.lru := by
  unfold State.link; simp
@[simp] theorem State.link_icache (s : State) : (s.link).memory.icache = s.memory.icache := by
  unfold State.link; simp
@[simp] theorem State.link_stale (s : State) : (s.link).memory.stale = s.memory.stale := by
  unfold State.link; simp
@[simp] theorem State.link_devices (s : State) : (s.link).memory.devices = s.memory.devices := by
  unfold State.link; simp
@[simp] theorem State.link_drainedDevices (s : State) : (s.link).drainedDevices = s.drainedDevices := by
  unfold State.link; simp
@[simp] theorem State.link_busByte (s : State) (a : Nat) : (s.link).busByte a = s.busByte a := by
  unfold State.link; simp

/-! `State.writeHiLo`. -/
@[simp] theorem State.writeHiLo_gpr (s : State) (t : BitVec 64) : (s.writeHiLo t).gpr = s.gpr := rfl
@[simp] theorem State.writeHiLo_pc (s : State) (t : BitVec 64) : (s.writeHiLo t).pc = s.pc := rfl
@[simp] theorem State.writeHiLo_nextPc (s : State) (t : BitVec 64) : (s.writeHiLo t).nextPc = s.nextPc := rfl
@[simp] theorem State.writeHiLo_slot (s : State) (t : BitVec 64) : (s.writeHiLo t).slot = s.slot := rfl
@[simp] theorem State.writeHiLo_cp0 (s : State) (t : BitVec 64) : (s.writeHiLo t).cp0 = s.cp0 := rfl
@[simp] theorem State.writeHiLo_hidden (s : State) (t : BitVec 64) : (s.writeHiLo t).hidden = s.hidden := rfl
@[simp] theorem State.writeHiLo_platform (s : State) (t : BitVec 64) : (s.writeHiLo t).platform = s.platform := rfl
@[simp] theorem State.writeHiLo_draws (s : State) (t : BitVec 64) : (s.writeHiLo t).draws = s.draws := rfl
@[simp] theorem State.writeHiLo_bytes (s : State) (t : BitVec 64) : (s.writeHiLo t).memory.bytes = s.memory.bytes :=
    rfl
@[simp] theorem State.writeHiLo_buffer (s : State) (t : BitVec 64) : (s.writeHiLo t).memory.buffer = s.memory.buffer :=
    rfl
@[simp] theorem State.writeHiLo_dcache (s : State) (t : BitVec 64) : (s.writeHiLo t).memory.dcache = s.memory.dcache :=
    rfl
@[simp] theorem State.writeHiLo_lru (s : State) (t : BitVec 64) : (s.writeHiLo t).memory.lru = s.memory.lru := rfl
@[simp] theorem State.writeHiLo_icache (s : State) (t : BitVec 64) : (s.writeHiLo t).memory.icache = s.memory.icache :=
    rfl
@[simp] theorem State.writeHiLo_stale (s : State) (t : BitVec 64) : (s.writeHiLo t).memory.stale = s.memory.stale :=
    rfl
@[simp] theorem State.writeHiLo_devices (s : State) (t : BitVec 64) : (s.writeHiLo t).memory.devices = s.memory.devices :=
    rfl
@[simp] theorem State.writeHiLo_drainedDevices (s : State) (t : BitVec 64) : (s.writeHiLo t).drainedDevices = s.drainedDevices :=
    rfl
@[simp] theorem State.writeHiLo_busByte (s : State) (t : BitVec 64) (a : Nat) : (s.writeHiLo t).busByte a = s.busByte a :=
    rfl
@[simp] theorem State.writeHiLo_reg (s : State) (t : BitVec 64) (r : RegIndex) : (s.writeHiLo t).reg r = s.reg r :=
    rfl

/-! `State.setDivBusy`. -/
@[simp] theorem State.setDivBusy_gpr (s : State) (b : Bool) : (s.setDivBusy b).gpr = s.gpr := rfl
@[simp] theorem State.setDivBusy_pc (s : State) (b : Bool) : (s.setDivBusy b).pc = s.pc := rfl
@[simp] theorem State.setDivBusy_nextPc (s : State) (b : Bool) : (s.setDivBusy b).nextPc = s.nextPc := rfl
@[simp] theorem State.setDivBusy_slot (s : State) (b : Bool) : (s.setDivBusy b).slot = s.slot := rfl
@[simp] theorem State.setDivBusy_hi (s : State) (b : Bool) : (s.setDivBusy b).hi = s.hi := rfl
@[simp] theorem State.setDivBusy_lo (s : State) (b : Bool) : (s.setDivBusy b).lo = s.lo := rfl
@[simp] theorem State.setDivBusy_cp0 (s : State) (b : Bool) : (s.setDivBusy b).cp0 = s.cp0 := rfl
@[simp] theorem State.setDivBusy_platform (s : State) (b : Bool) : (s.setDivBusy b).platform = s.platform := rfl
@[simp] theorem State.setDivBusy_draws (s : State) (b : Bool) : (s.setDivBusy b).draws = s.draws := rfl
@[simp] theorem State.setDivBusy_bytes (s : State) (b : Bool) : (s.setDivBusy b).memory.bytes = s.memory.bytes := rfl
@[simp] theorem State.setDivBusy_buffer (s : State) (b : Bool) : (s.setDivBusy b).memory.buffer = s.memory.buffer :=
    rfl
@[simp] theorem State.setDivBusy_dcache (s : State) (b : Bool) : (s.setDivBusy b).memory.dcache = s.memory.dcache :=
    rfl
@[simp] theorem State.setDivBusy_lru (s : State) (b : Bool) : (s.setDivBusy b).memory.lru = s.memory.lru := rfl
@[simp] theorem State.setDivBusy_icache (s : State) (b : Bool) : (s.setDivBusy b).memory.icache = s.memory.icache :=
    rfl
@[simp] theorem State.setDivBusy_stale (s : State) (b : Bool) : (s.setDivBusy b).memory.stale = s.memory.stale := rfl
@[simp] theorem State.setDivBusy_devices (s : State) (b : Bool) : (s.setDivBusy b).memory.devices = s.memory.devices :=
    rfl
@[simp] theorem State.setDivBusy_drainedDevices (s : State) (b : Bool) : (s.setDivBusy b).drainedDevices = s.drainedDevices :=
    rfl
@[simp] theorem State.setDivBusy_busByte (s : State) (b : Bool) (a : Nat) : (s.setDivBusy b).busByte a = s.busByte a :=
    rfl
@[simp] theorem State.setDivBusy_reg (s : State) (b : Bool) (r : RegIndex) : (s.setDivBusy b).reg r = s.reg r := rfl

/-! `State.hiLoRead`. -/
@[simp] theorem State.hiLoRead_gpr (s : State) : (s.hiLoRead).gpr = s.gpr := rfl
@[simp] theorem State.hiLoRead_pc (s : State) : (s.hiLoRead).pc = s.pc := rfl
@[simp] theorem State.hiLoRead_nextPc (s : State) : (s.hiLoRead).nextPc = s.nextPc := rfl
@[simp] theorem State.hiLoRead_slot (s : State) : (s.hiLoRead).slot = s.slot := rfl
@[simp] theorem State.hiLoRead_hi (s : State) : (s.hiLoRead).hi = s.hi := rfl
@[simp] theorem State.hiLoRead_lo (s : State) : (s.hiLoRead).lo = s.lo := rfl
@[simp] theorem State.hiLoRead_cp0 (s : State) : (s.hiLoRead).cp0 = s.cp0 := rfl
@[simp] theorem State.hiLoRead_platform (s : State) : (s.hiLoRead).platform = s.platform := rfl
@[simp] theorem State.hiLoRead_draws (s : State) : (s.hiLoRead).draws = s.draws := rfl
@[simp] theorem State.hiLoRead_bytes (s : State) : (s.hiLoRead).memory.bytes = s.memory.bytes := rfl
@[simp] theorem State.hiLoRead_buffer (s : State) : (s.hiLoRead).memory.buffer = s.memory.buffer := rfl
@[simp] theorem State.hiLoRead_dcache (s : State) : (s.hiLoRead).memory.dcache = s.memory.dcache := rfl
@[simp] theorem State.hiLoRead_lru (s : State) : (s.hiLoRead).memory.lru = s.memory.lru := rfl
@[simp] theorem State.hiLoRead_icache (s : State) : (s.hiLoRead).memory.icache = s.memory.icache := rfl
@[simp] theorem State.hiLoRead_stale (s : State) : (s.hiLoRead).memory.stale = s.memory.stale := rfl
@[simp] theorem State.hiLoRead_devices (s : State) : (s.hiLoRead).memory.devices = s.memory.devices := rfl
@[simp] theorem State.hiLoRead_drainedDevices (s : State) : (s.hiLoRead).drainedDevices = s.drainedDevices := rfl
@[simp] theorem State.hiLoRead_busByte (s : State) (a : Nat) : (s.hiLoRead).busByte a = s.busByte a := rfl
@[simp] theorem State.hiLoRead_reg (s : State) (r : RegIndex) : (s.hiLoRead).reg r = s.reg r := rfl

/-! `State.writeProduct`. -/
@[simp] theorem State.writeProduct_pc (s : State) (rd : RegIndex) (t : BitVec 64) : (s.writeProduct rd t).pc = s.pc := by
  unfold State.writeProduct; simp
@[simp] theorem State.writeProduct_nextPc (s : State) (rd : RegIndex) (t : BitVec 64) : (s.writeProduct rd t).nextPc = s.nextPc := by
  unfold State.writeProduct; simp
@[simp] theorem State.writeProduct_slot (s : State) (rd : RegIndex) (t : BitVec 64) : (s.writeProduct rd t).slot = s.slot := by
  unfold State.writeProduct; simp
@[simp] theorem State.writeProduct_cp0 (s : State) (rd : RegIndex) (t : BitVec 64) : (s.writeProduct rd t).cp0 = s.cp0 := by
  unfold State.writeProduct; simp
@[simp] theorem State.writeProduct_platform (s : State) (rd : RegIndex) (t : BitVec 64) : (s.writeProduct rd t).platform = s.platform := by
  unfold State.writeProduct; simp
@[simp] theorem State.writeProduct_draws (s : State) (rd : RegIndex) (t : BitVec 64) : (s.writeProduct rd t).draws = s.draws := by
  unfold State.writeProduct; simp
@[simp] theorem State.writeProduct_bytes (s : State) (rd : RegIndex) (t : BitVec 64) : (s.writeProduct rd t).memory.bytes = s.memory.bytes := by
  unfold State.writeProduct; simp
@[simp] theorem State.writeProduct_buffer (s : State) (rd : RegIndex) (t : BitVec 64) : (s.writeProduct rd t).memory.buffer = s.memory.buffer := by
  unfold State.writeProduct; simp
@[simp] theorem State.writeProduct_dcache (s : State) (rd : RegIndex) (t : BitVec 64) : (s.writeProduct rd t).memory.dcache = s.memory.dcache := by
  unfold State.writeProduct; simp
@[simp] theorem State.writeProduct_lru (s : State) (rd : RegIndex) (t : BitVec 64) : (s.writeProduct rd t).memory.lru = s.memory.lru := by
  unfold State.writeProduct; simp
@[simp] theorem State.writeProduct_icache (s : State) (rd : RegIndex) (t : BitVec 64) : (s.writeProduct rd t).memory.icache = s.memory.icache := by
  unfold State.writeProduct; simp
@[simp] theorem State.writeProduct_stale (s : State) (rd : RegIndex) (t : BitVec 64) : (s.writeProduct rd t).memory.stale = s.memory.stale := by
  unfold State.writeProduct; simp
@[simp] theorem State.writeProduct_devices (s : State) (rd : RegIndex) (t : BitVec 64) : (s.writeProduct rd t).memory.devices = s.memory.devices := by
  unfold State.writeProduct; simp
@[simp] theorem State.writeProduct_drainedDevices (s : State) (rd : RegIndex) (t : BitVec 64) : (s.writeProduct rd t).drainedDevices = s.drainedDevices := by
  unfold State.writeProduct; simp
@[simp] theorem State.writeProduct_busByte (s : State) (rd : RegIndex) (t : BitVec 64) (a : Nat) : (s.writeProduct rd t).busByte a = s.busByte a := by
  unfold State.writeProduct; simp

/-! `State.staleArrival`. -/
@[simp] theorem State.staleArrival_gpr (s : State) (j : Bool) (pc : Word) : (s.staleArrival j pc).gpr = s.gpr := rfl
@[simp] theorem State.staleArrival_pc (s : State) (j : Bool) (pc : Word) : (s.staleArrival j pc).pc = s.pc := rfl
@[simp] theorem State.staleArrival_nextPc (s : State) (j : Bool) (pc : Word) : (s.staleArrival j pc).nextPc = s.nextPc :=
    rfl
@[simp] theorem State.staleArrival_slot (s : State) (j : Bool) (pc : Word) : (s.staleArrival j pc).slot = s.slot :=
    rfl
@[simp] theorem State.staleArrival_hi (s : State) (j : Bool) (pc : Word) : (s.staleArrival j pc).hi = s.hi := rfl
@[simp] theorem State.staleArrival_lo (s : State) (j : Bool) (pc : Word) : (s.staleArrival j pc).lo = s.lo := rfl
@[simp] theorem State.staleArrival_cp0 (s : State) (j : Bool) (pc : Word) : (s.staleArrival j pc).cp0 = s.cp0 := rfl
@[simp] theorem State.staleArrival_hidden (s : State) (j : Bool) (pc : Word) : (s.staleArrival j pc).hidden = s.hidden :=
    rfl
@[simp] theorem State.staleArrival_platform (s : State) (j : Bool) (pc : Word) : (s.staleArrival j pc).platform = s.platform :=
    rfl
@[simp] theorem State.staleArrival_draws (s : State) (j : Bool) (pc : Word) : (s.staleArrival j pc).draws = s.draws :=
    rfl
@[simp] theorem State.staleArrival_bytes (s : State) (j : Bool) (pc : Word) : (s.staleArrival j pc).memory.bytes = s.memory.bytes :=
    rfl
@[simp] theorem State.staleArrival_buffer (s : State) (j : Bool) (pc : Word) : (s.staleArrival j pc).memory.buffer = s.memory.buffer :=
    rfl
@[simp] theorem State.staleArrival_dcache (s : State) (j : Bool) (pc : Word) : (s.staleArrival j pc).memory.dcache = s.memory.dcache :=
    rfl
@[simp] theorem State.staleArrival_lru (s : State) (j : Bool) (pc : Word) : (s.staleArrival j pc).memory.lru = s.memory.lru :=
    rfl
@[simp] theorem State.staleArrival_icache (s : State) (j : Bool) (pc : Word) : (s.staleArrival j pc).memory.icache = s.memory.icache :=
    rfl
@[simp] theorem State.staleArrival_devices (s : State) (j : Bool) (pc : Word) : (s.staleArrival j pc).memory.devices = s.memory.devices :=
    rfl
@[simp] theorem State.staleArrival_drainedDevices (s : State) (j : Bool) (pc : Word) : (s.staleArrival j pc).drainedDevices = s.drainedDevices :=
    rfl
@[simp] theorem State.staleArrival_busByte (s : State) (j : Bool) (pc : Word) (a : Nat) : (s.staleArrival j pc).busByte a = s.busByte a :=
    rfl
@[simp] theorem State.staleArrival_reg (s : State) (j : Bool) (pc : Word) (r : RegIndex) : (s.staleArrival j pc).reg r = s.reg r :=
    rfl

/-! `State.advance`. -/
@[simp] theorem State.advance_gpr (s : State) (ice : Bool) (next : Word) (slot : Slot) : (s.advance ice next slot).gpr = s.gpr :=
    rfl
@[simp] theorem State.advance_hi (s : State) (ice : Bool) (next : Word) (slot : Slot) : (s.advance ice next slot).hi = s.hi :=
    rfl
@[simp] theorem State.advance_lo (s : State) (ice : Bool) (next : Word) (slot : Slot) : (s.advance ice next slot).lo = s.lo :=
    rfl
@[simp] theorem State.advance_platform (s : State) (ice : Bool) (next : Word) (slot : Slot) : (s.advance ice next slot).platform = s.platform :=
    rfl
@[simp] theorem State.advance_bytes (s : State) (ice : Bool) (next : Word) (slot : Slot) : (s.advance ice next slot).memory.bytes = s.memory.bytes :=
    rfl
@[simp] theorem State.advance_buffer (s : State) (ice : Bool) (next : Word) (slot : Slot) : (s.advance ice next slot).memory.buffer = s.memory.buffer :=
    rfl
@[simp] theorem State.advance_dcache (s : State) (ice : Bool) (next : Word) (slot : Slot) : (s.advance ice next slot).memory.dcache = s.memory.dcache :=
    rfl
@[simp] theorem State.advance_lru (s : State) (ice : Bool) (next : Word) (slot : Slot) : (s.advance ice next slot).memory.lru = s.memory.lru :=
    rfl
@[simp] theorem State.advance_icache (s : State) (ice : Bool) (next : Word) (slot : Slot) : (s.advance ice next slot).memory.icache = s.memory.icache :=
    rfl
@[simp] theorem State.advance_devices (s : State) (ice : Bool) (next : Word) (slot : Slot) : (s.advance ice next slot).memory.devices = s.memory.devices :=
    rfl
@[simp] theorem State.advance_drainedDevices (s : State) (ice : Bool) (next : Word) (slot : Slot) : (s.advance ice next slot).drainedDevices = s.drainedDevices :=
    rfl
@[simp] theorem State.advance_busByte (s : State) (ice : Bool) (next : Word) (slot : Slot) (a : Nat) : (s.advance ice next slot).busByte a = s.busByte a :=
    rfl
@[simp] theorem State.advance_reg (s : State) (ice : Bool) (next : Word) (slot : Slot) (r : RegIndex) : (s.advance ice next slot).reg r = s.reg r :=
    rfl

/-! `State.retire`. -/
@[simp] theorem State.retire_gpr (s : State) : (s.retire).gpr = s.gpr := rfl
@[simp] theorem State.retire_hi (s : State) : (s.retire).hi = s.hi := rfl
@[simp] theorem State.retire_lo (s : State) : (s.retire).lo = s.lo := rfl
@[simp] theorem State.retire_platform (s : State) : (s.retire).platform = s.platform := rfl
@[simp] theorem State.retire_bytes (s : State) : (s.retire).memory.bytes = s.memory.bytes := rfl
@[simp] theorem State.retire_buffer (s : State) : (s.retire).memory.buffer = s.memory.buffer := rfl
@[simp] theorem State.retire_dcache (s : State) : (s.retire).memory.dcache = s.memory.dcache := rfl
@[simp] theorem State.retire_lru (s : State) : (s.retire).memory.lru = s.memory.lru := rfl
@[simp] theorem State.retire_icache (s : State) : (s.retire).memory.icache = s.memory.icache := rfl
@[simp] theorem State.retire_devices (s : State) : (s.retire).memory.devices = s.memory.devices := rfl
@[simp] theorem State.retire_drainedDevices (s : State) : (s.retire).drainedDevices = s.drainedDevices := rfl
@[simp] theorem State.retire_busByte (s : State) (a : Nat) : (s.retire).busByte a = s.busByte a := rfl
@[simp] theorem State.retire_reg (s : State) (r : RegIndex) : (s.retire).reg r = s.reg r := rfl

/-! `State.jump`. -/
@[simp] theorem State.jump_gpr (s : State) (target : Word) : (s.jump target).gpr = s.gpr := rfl
@[simp] theorem State.jump_hi (s : State) (target : Word) : (s.jump target).hi = s.hi := rfl
@[simp] theorem State.jump_lo (s : State) (target : Word) : (s.jump target).lo = s.lo := rfl
@[simp] theorem State.jump_platform (s : State) (target : Word) : (s.jump target).platform = s.platform := rfl
@[simp] theorem State.jump_bytes (s : State) (target : Word) : (s.jump target).memory.bytes = s.memory.bytes := rfl
@[simp] theorem State.jump_buffer (s : State) (target : Word) : (s.jump target).memory.buffer = s.memory.buffer := rfl
@[simp] theorem State.jump_dcache (s : State) (target : Word) : (s.jump target).memory.dcache = s.memory.dcache := rfl
@[simp] theorem State.jump_lru (s : State) (target : Word) : (s.jump target).memory.lru = s.memory.lru := rfl
@[simp] theorem State.jump_icache (s : State) (target : Word) : (s.jump target).memory.icache = s.memory.icache := rfl
@[simp] theorem State.jump_devices (s : State) (target : Word) : (s.jump target).memory.devices = s.memory.devices :=
    rfl
@[simp] theorem State.jump_drainedDevices (s : State) (target : Word) : (s.jump target).drainedDevices = s.drainedDevices :=
    rfl
@[simp] theorem State.jump_busByte (s : State) (target : Word) (a : Nat) : (s.jump target).busByte a = s.busByte a :=
    rfl
@[simp] theorem State.jump_reg (s : State) (target : Word) (r : RegIndex) : (s.jump target).reg r = s.reg r := rfl

/-! `State.fallThrough`. -/
@[simp] theorem State.fallThrough_gpr (s : State) : (s.fallThrough).gpr = s.gpr := rfl
@[simp] theorem State.fallThrough_hi (s : State) : (s.fallThrough).hi = s.hi := rfl
@[simp] theorem State.fallThrough_lo (s : State) : (s.fallThrough).lo = s.lo := rfl
@[simp] theorem State.fallThrough_platform (s : State) : (s.fallThrough).platform = s.platform := rfl
@[simp] theorem State.fallThrough_bytes (s : State) : (s.fallThrough).memory.bytes = s.memory.bytes := rfl
@[simp] theorem State.fallThrough_buffer (s : State) : (s.fallThrough).memory.buffer = s.memory.buffer := rfl
@[simp] theorem State.fallThrough_dcache (s : State) : (s.fallThrough).memory.dcache = s.memory.dcache := rfl
@[simp] theorem State.fallThrough_lru (s : State) : (s.fallThrough).memory.lru = s.memory.lru := rfl
@[simp] theorem State.fallThrough_icache (s : State) : (s.fallThrough).memory.icache = s.memory.icache := rfl
@[simp] theorem State.fallThrough_devices (s : State) : (s.fallThrough).memory.devices = s.memory.devices := rfl
@[simp] theorem State.fallThrough_drainedDevices (s : State) : (s.fallThrough).drainedDevices = s.drainedDevices :=
    rfl
@[simp] theorem State.fallThrough_busByte (s : State) (a : Nat) : (s.fallThrough).busByte a = s.busByte a := rfl
@[simp] theorem State.fallThrough_reg (s : State) (r : RegIndex) : (s.fallThrough).reg r = s.reg r := rfl

/-! `State.nullify`. -/
@[simp] theorem State.nullify_gpr (s : State) : (s.nullify).gpr = s.gpr := rfl
@[simp] theorem State.nullify_hi (s : State) : (s.nullify).hi = s.hi := rfl
@[simp] theorem State.nullify_lo (s : State) : (s.nullify).lo = s.lo := rfl
@[simp] theorem State.nullify_platform (s : State) : (s.nullify).platform = s.platform := rfl
@[simp] theorem State.nullify_bytes (s : State) : (s.nullify).memory.bytes = s.memory.bytes := rfl
@[simp] theorem State.nullify_buffer (s : State) : (s.nullify).memory.buffer = s.memory.buffer := rfl
@[simp] theorem State.nullify_dcache (s : State) : (s.nullify).memory.dcache = s.memory.dcache := rfl
@[simp] theorem State.nullify_lru (s : State) : (s.nullify).memory.lru = s.memory.lru := rfl
@[simp] theorem State.nullify_icache (s : State) : (s.nullify).memory.icache = s.memory.icache := rfl
@[simp] theorem State.nullify_devices (s : State) : (s.nullify).memory.devices = s.memory.devices := rfl
@[simp] theorem State.nullify_drainedDevices (s : State) : (s.nullify).drainedDevices = s.drainedDevices := rfl
@[simp] theorem State.nullify_busByte (s : State) (a : Nat) : (s.nullify).busByte a = s.busByte a := rfl
@[simp] theorem State.nullify_reg (s : State) (r : RegIndex) : (s.nullify).reg r = s.reg r := rfl

/-! `State.record`. -/
@[simp] theorem State.record_gpr (s : State) (e : Exception) : (s.record e).gpr = s.gpr := rfl
@[simp] theorem State.record_pc (s : State) (e : Exception) : (s.record e).pc = s.pc := rfl
@[simp] theorem State.record_nextPc (s : State) (e : Exception) : (s.record e).nextPc = s.nextPc := rfl
@[simp] theorem State.record_slot (s : State) (e : Exception) : (s.record e).slot = s.slot := rfl
@[simp] theorem State.record_hi (s : State) (e : Exception) : (s.record e).hi = s.hi := rfl
@[simp] theorem State.record_lo (s : State) (e : Exception) : (s.record e).lo = s.lo := rfl
@[simp] theorem State.record_hidden (s : State) (e : Exception) : (s.record e).hidden = s.hidden := rfl
@[simp] theorem State.record_platform (s : State) (e : Exception) : (s.record e).platform = s.platform := rfl
@[simp] theorem State.record_draws (s : State) (e : Exception) : (s.record e).draws = s.draws := rfl
@[simp] theorem State.record_bytes (s : State) (e : Exception) : (s.record e).memory.bytes = s.memory.bytes := rfl
@[simp] theorem State.record_buffer (s : State) (e : Exception) : (s.record e).memory.buffer = s.memory.buffer := rfl
@[simp] theorem State.record_dcache (s : State) (e : Exception) : (s.record e).memory.dcache = s.memory.dcache := rfl
@[simp] theorem State.record_lru (s : State) (e : Exception) : (s.record e).memory.lru = s.memory.lru := rfl
@[simp] theorem State.record_icache (s : State) (e : Exception) : (s.record e).memory.icache = s.memory.icache := rfl
@[simp] theorem State.record_stale (s : State) (e : Exception) : (s.record e).memory.stale = s.memory.stale := rfl
@[simp] theorem State.record_devices (s : State) (e : Exception) : (s.record e).memory.devices = s.memory.devices :=
    rfl
@[simp] theorem State.record_drainedDevices (s : State) (e : Exception) : (s.record e).drainedDevices = s.drainedDevices :=
    rfl
@[simp] theorem State.record_busByte (s : State) (e : Exception) (a : Nat) : (s.record e).busByte a = s.busByte a :=
    rfl
@[simp] theorem State.record_reg (s : State) (e : Exception) (r : RegIndex) : (s.record e).reg r = s.reg r := rfl

/-! `State.goVector`. -/
@[simp] theorem State.goVector_gpr (s : State) (v : Word) (b : Bool) : (s.goVector v b).gpr = s.gpr := rfl
@[simp] theorem State.goVector_hi (s : State) (v : Word) (b : Bool) : (s.goVector v b).hi = s.hi := rfl
@[simp] theorem State.goVector_lo (s : State) (v : Word) (b : Bool) : (s.goVector v b).lo = s.lo := rfl
@[simp] theorem State.goVector_cp0 (s : State) (v : Word) (b : Bool) : (s.goVector v b).cp0 = s.cp0 := rfl
@[simp] theorem State.goVector_platform (s : State) (v : Word) (b : Bool) : (s.goVector v b).platform = s.platform :=
    rfl
@[simp] theorem State.goVector_bytes (s : State) (v : Word) (b : Bool) : (s.goVector v b).memory.bytes = s.memory.bytes :=
    rfl
@[simp] theorem State.goVector_buffer (s : State) (v : Word) (b : Bool) : (s.goVector v b).memory.buffer = s.memory.buffer :=
    rfl
@[simp] theorem State.goVector_dcache (s : State) (v : Word) (b : Bool) : (s.goVector v b).memory.dcache = s.memory.dcache :=
    rfl
@[simp] theorem State.goVector_lru (s : State) (v : Word) (b : Bool) : (s.goVector v b).memory.lru = s.memory.lru :=
    rfl
@[simp] theorem State.goVector_icache (s : State) (v : Word) (b : Bool) : (s.goVector v b).memory.icache = s.memory.icache :=
    rfl
@[simp] theorem State.goVector_devices (s : State) (v : Word) (b : Bool) : (s.goVector v b).memory.devices = s.memory.devices :=
    rfl
@[simp] theorem State.goVector_drainedDevices (s : State) (v : Word) (b : Bool) : (s.goVector v b).drainedDevices = s.drainedDevices :=
    rfl
@[simp] theorem State.goVector_busByte (s : State) (v : Word) (b : Bool) (a : Nat) : (s.goVector v b).busByte a = s.busByte a :=
    rfl
@[simp] theorem State.goVector_reg (s : State) (v : Word) (b : Bool) (r : RegIndex) : (s.goVector v b).reg r = s.reg r :=
    rfl

/-! `State.exceptionEntry`. -/
@[simp] theorem State.exceptionEntry_gpr (s : State) (e : Exception) : (s.exceptionEntry e).gpr = s.gpr := rfl
@[simp] theorem State.exceptionEntry_hi (s : State) (e : Exception) : (s.exceptionEntry e).hi = s.hi := rfl
@[simp] theorem State.exceptionEntry_lo (s : State) (e : Exception) : (s.exceptionEntry e).lo = s.lo := rfl
@[simp] theorem State.exceptionEntry_platform (s : State) (e : Exception) : (s.exceptionEntry e).platform = s.platform :=
    rfl
@[simp] theorem State.exceptionEntry_bytes (s : State) (e : Exception) : (s.exceptionEntry e).memory.bytes = s.memory.bytes :=
    rfl
@[simp] theorem State.exceptionEntry_buffer (s : State) (e : Exception) : (s.exceptionEntry e).memory.buffer = s.memory.buffer :=
    rfl
@[simp] theorem State.exceptionEntry_dcache (s : State) (e : Exception) : (s.exceptionEntry e).memory.dcache = s.memory.dcache :=
    rfl
@[simp] theorem State.exceptionEntry_lru (s : State) (e : Exception) : (s.exceptionEntry e).memory.lru = s.memory.lru :=
    rfl
@[simp] theorem State.exceptionEntry_icache (s : State) (e : Exception) : (s.exceptionEntry e).memory.icache = s.memory.icache :=
    rfl
@[simp] theorem State.exceptionEntry_devices (s : State) (e : Exception) : (s.exceptionEntry e).memory.devices = s.memory.devices :=
    rfl
@[simp] theorem State.exceptionEntry_drainedDevices (s : State) (e : Exception) : (s.exceptionEntry e).drainedDevices = s.drainedDevices :=
    rfl
@[simp] theorem State.exceptionEntry_busByte (s : State) (e : Exception) (a : Nat) : (s.exceptionEntry e).busByte a = s.busByte a :=
    rfl
@[simp] theorem State.exceptionEntry_reg (s : State) (e : Exception) (r : RegIndex) : (s.exceptionEntry e).reg r = s.reg r :=
    rfl

/-! `State.boundaryEntry`. -/
@[simp] theorem State.boundaryEntry_gpr (s : State) (e : Exception) : (s.boundaryEntry e).gpr = s.gpr := rfl
@[simp] theorem State.boundaryEntry_hi (s : State) (e : Exception) : (s.boundaryEntry e).hi = s.hi := rfl
@[simp] theorem State.boundaryEntry_lo (s : State) (e : Exception) : (s.boundaryEntry e).lo = s.lo := rfl
@[simp] theorem State.boundaryEntry_platform (s : State) (e : Exception) : (s.boundaryEntry e).platform = s.platform :=
    rfl
@[simp] theorem State.boundaryEntry_bytes (s : State) (e : Exception) : (s.boundaryEntry e).memory.bytes = s.memory.bytes :=
    rfl
@[simp] theorem State.boundaryEntry_buffer (s : State) (e : Exception) : (s.boundaryEntry e).memory.buffer = s.memory.buffer :=
    rfl
@[simp] theorem State.boundaryEntry_dcache (s : State) (e : Exception) : (s.boundaryEntry e).memory.dcache = s.memory.dcache :=
    rfl
@[simp] theorem State.boundaryEntry_lru (s : State) (e : Exception) : (s.boundaryEntry e).memory.lru = s.memory.lru :=
    rfl
@[simp] theorem State.boundaryEntry_icache (s : State) (e : Exception) : (s.boundaryEntry e).memory.icache = s.memory.icache :=
    rfl
@[simp] theorem State.boundaryEntry_devices (s : State) (e : Exception) : (s.boundaryEntry e).memory.devices = s.memory.devices :=
    rfl
@[simp] theorem State.boundaryEntry_drainedDevices (s : State) (e : Exception) : (s.boundaryEntry e).drainedDevices = s.drainedDevices :=
    rfl
@[simp] theorem State.boundaryEntry_busByte (s : State) (e : Exception) (a : Nat) : (s.boundaryEntry e).busByte a = s.busByte a :=
    rfl
@[simp] theorem State.boundaryEntry_reg (s : State) (e : Exception) (r : RegIndex) : (s.boundaryEntry e).reg r = s.reg r :=
    rfl

/-! `State.recordNmi`. -/
@[simp] theorem State.recordNmi_gpr (s : State) : (s.recordNmi).gpr = s.gpr := rfl
@[simp] theorem State.recordNmi_pc (s : State) : (s.recordNmi).pc = s.pc := rfl
@[simp] theorem State.recordNmi_nextPc (s : State) : (s.recordNmi).nextPc = s.nextPc := rfl
@[simp] theorem State.recordNmi_slot (s : State) : (s.recordNmi).slot = s.slot := rfl
@[simp] theorem State.recordNmi_hi (s : State) : (s.recordNmi).hi = s.hi := rfl
@[simp] theorem State.recordNmi_lo (s : State) : (s.recordNmi).lo = s.lo := rfl
@[simp] theorem State.recordNmi_platform (s : State) : (s.recordNmi).platform = s.platform := rfl
@[simp] theorem State.recordNmi_draws (s : State) : (s.recordNmi).draws = s.draws := rfl
@[simp] theorem State.recordNmi_bytes (s : State) : (s.recordNmi).memory.bytes = s.memory.bytes := rfl
@[simp] theorem State.recordNmi_buffer (s : State) : (s.recordNmi).memory.buffer = s.memory.buffer := rfl
@[simp] theorem State.recordNmi_dcache (s : State) : (s.recordNmi).memory.dcache = s.memory.dcache := rfl
@[simp] theorem State.recordNmi_lru (s : State) : (s.recordNmi).memory.lru = s.memory.lru := rfl
@[simp] theorem State.recordNmi_icache (s : State) : (s.recordNmi).memory.icache = s.memory.icache := rfl
@[simp] theorem State.recordNmi_stale (s : State) : (s.recordNmi).memory.stale = s.memory.stale := rfl
@[simp] theorem State.recordNmi_devices (s : State) : (s.recordNmi).memory.devices = s.memory.devices := rfl
@[simp] theorem State.recordNmi_drainedDevices (s : State) : (s.recordNmi).drainedDevices = s.drainedDevices := rfl
@[simp] theorem State.recordNmi_busByte (s : State) (a : Nat) : (s.recordNmi).busByte a = s.busByte a := rfl
@[simp] theorem State.recordNmi_reg (s : State) (r : RegIndex) : (s.recordNmi).reg r = s.reg r := rfl

/-! `State.nmiEntry`. -/
@[simp] theorem State.nmiEntry_gpr (s : State) : (s.nmiEntry).gpr = s.gpr := rfl
@[simp] theorem State.nmiEntry_hi (s : State) : (s.nmiEntry).hi = s.hi := rfl
@[simp] theorem State.nmiEntry_lo (s : State) : (s.nmiEntry).lo = s.lo := rfl
@[simp] theorem State.nmiEntry_platform (s : State) : (s.nmiEntry).platform = s.platform := rfl
@[simp] theorem State.nmiEntry_bytes (s : State) : (s.nmiEntry).memory.bytes = s.memory.bytes := rfl
@[simp] theorem State.nmiEntry_buffer (s : State) : (s.nmiEntry).memory.buffer = s.memory.buffer := rfl
@[simp] theorem State.nmiEntry_dcache (s : State) : (s.nmiEntry).memory.dcache = s.memory.dcache := rfl
@[simp] theorem State.nmiEntry_lru (s : State) : (s.nmiEntry).memory.lru = s.memory.lru := rfl
@[simp] theorem State.nmiEntry_icache (s : State) : (s.nmiEntry).memory.icache = s.memory.icache := rfl
@[simp] theorem State.nmiEntry_devices (s : State) : (s.nmiEntry).memory.devices = s.memory.devices := rfl
@[simp] theorem State.nmiEntry_drainedDevices (s : State) : (s.nmiEntry).drainedDevices = s.drainedDevices := rfl
@[simp] theorem State.nmiEntry_busByte (s : State) (a : Nat) : (s.nmiEntry).busByte a = s.busByte a := rfl
@[simp] theorem State.nmiEntry_reg (s : State) (r : RegIndex) : (s.nmiEntry).reg r = s.reg r := rfl

/-! `State.setDepc`. -/
@[simp] theorem State.setDepc_pc (s : State) (v : Word) : (s.setDepc v).pc = s.pc := rfl
@[simp] theorem State.setDepc_nextPc (s : State) (v : Word) : (s.setDepc v).nextPc = s.nextPc := rfl
@[simp] theorem State.setDepc_slot (s : State) (v : Word) : (s.setDepc v).slot = s.slot := rfl
@[simp] theorem State.setDepc_gpr (s : State) (v : Word) : (s.setDepc v).gpr = s.gpr := rfl
@[simp] theorem State.setDepc_hi (s : State) (v : Word) : (s.setDepc v).hi = s.hi := rfl
@[simp] theorem State.setDepc_lo (s : State) (v : Word) : (s.setDepc v).lo = s.lo := rfl
@[simp] theorem State.setDepc_hidden (s : State) (v : Word) : (s.setDepc v).hidden = s.hidden := rfl
@[simp] theorem State.setDepc_memory (s : State) (v : Word) : (s.setDepc v).memory = s.memory := rfl
@[simp] theorem State.setDepc_platform (s : State) (v : Word) : (s.setDepc v).platform = s.platform := rfl
@[simp] theorem State.setDepc_draws (s : State) (v : Word) : (s.setDepc v).draws = s.draws := rfl
@[simp] theorem State.setDepc_cp0 (s : State) (v : Word) : (s.setDepc v).cp0 = { s.cp0 with depc := v } := rfl
@[simp] theorem State.setDepc_drainedDevices (s : State) (v : Word) : (s.setDepc v).drainedDevices = s.drainedDevices := rfl
@[simp] theorem State.setDepc_busByte (s : State) (v : Word) (a : Nat) : (s.setDepc v).busByte a = s.busByte a := rfl
@[simp] theorem State.setDepc_reg (s : State) (v : Word) (r : RegIndex) : (s.setDepc v).reg r = s.reg r := rfl

/-! `State.debugEntry`. -/
@[simp] theorem State.debugEntry_gpr (s : State) (single nis oes : Bool) : (s.debugEntry single nis oes).gpr = s.gpr :=
    rfl
@[simp] theorem State.debugEntry_hi (s : State) (single nis oes : Bool) : (s.debugEntry single nis oes).hi = s.hi :=
    rfl
@[simp] theorem State.debugEntry_lo (s : State) (single nis oes : Bool) : (s.debugEntry single nis oes).lo = s.lo :=
    rfl
@[simp] theorem State.debugEntry_platform (s : State) (single nis oes : Bool) : (s.debugEntry single nis oes).platform = s.platform :=
    rfl
@[simp] theorem State.debugEntry_bytes (s : State) (single nis oes : Bool) : (s.debugEntry single nis oes).memory.bytes = s.memory.bytes :=
    rfl
@[simp] theorem State.debugEntry_buffer (s : State) (single nis oes : Bool) : (s.debugEntry single nis oes).memory.buffer = s.memory.buffer :=
    rfl
@[simp] theorem State.debugEntry_dcache (s : State) (single nis oes : Bool) : (s.debugEntry single nis oes).memory.dcache = s.memory.dcache :=
    rfl
@[simp] theorem State.debugEntry_lru (s : State) (single nis oes : Bool) : (s.debugEntry single nis oes).memory.lru = s.memory.lru :=
    rfl
@[simp] theorem State.debugEntry_icache (s : State) (single nis oes : Bool) : (s.debugEntry single nis oes).memory.icache = s.memory.icache :=
    rfl
@[simp] theorem State.debugEntry_devices (s : State) (single nis oes : Bool) : (s.debugEntry single nis oes).memory.devices = s.memory.devices :=
    rfl
@[simp] theorem State.debugEntry_drainedDevices (s : State) (single nis oes : Bool) : (s.debugEntry single nis oes).drainedDevices = s.drainedDevices :=
    rfl
@[simp] theorem State.debugEntry_busByte (s : State) (single nis oes : Bool) (a : Nat) : (s.debugEntry single nis oes).busByte a = s.busByte a :=
    rfl
@[simp] theorem State.debugEntry_reg (s : State) (single nis oes : Bool) (r : RegIndex) : (s.debugEntry single nis oes).reg r = s.reg r :=
    rfl

/-! `State.clearTlf`. -/
@[simp] theorem State.clearTlf_gpr (s : State) : (s.clearTlf).gpr = s.gpr := rfl
@[simp] theorem State.clearTlf_pc (s : State) : (s.clearTlf).pc = s.pc := rfl
@[simp] theorem State.clearTlf_nextPc (s : State) : (s.clearTlf).nextPc = s.nextPc := rfl
@[simp] theorem State.clearTlf_slot (s : State) : (s.clearTlf).slot = s.slot := rfl
@[simp] theorem State.clearTlf_hi (s : State) : (s.clearTlf).hi = s.hi := rfl
@[simp] theorem State.clearTlf_lo (s : State) : (s.clearTlf).lo = s.lo := rfl
@[simp] theorem State.clearTlf_hidden (s : State) : (s.clearTlf).hidden = s.hidden := rfl
@[simp] theorem State.clearTlf_platform (s : State) : (s.clearTlf).platform = s.platform := rfl
@[simp] theorem State.clearTlf_draws (s : State) : (s.clearTlf).draws = s.draws := rfl
@[simp] theorem State.clearTlf_bytes (s : State) : (s.clearTlf).memory.bytes = s.memory.bytes := rfl
@[simp] theorem State.clearTlf_buffer (s : State) : (s.clearTlf).memory.buffer = s.memory.buffer := rfl
@[simp] theorem State.clearTlf_dcache (s : State) : (s.clearTlf).memory.dcache = s.memory.dcache := rfl
@[simp] theorem State.clearTlf_lru (s : State) : (s.clearTlf).memory.lru = s.memory.lru := rfl
@[simp] theorem State.clearTlf_icache (s : State) : (s.clearTlf).memory.icache = s.memory.icache := rfl
@[simp] theorem State.clearTlf_stale (s : State) : (s.clearTlf).memory.stale = s.memory.stale := rfl
@[simp] theorem State.clearTlf_devices (s : State) : (s.clearTlf).memory.devices = s.memory.devices := rfl
@[simp] theorem State.clearTlf_drainedDevices (s : State) : (s.clearTlf).drainedDevices = s.drainedDevices := rfl
@[simp] theorem State.clearTlf_busByte (s : State) (a : Nat) : (s.clearTlf).busByte a = s.busByte a := rfl
@[simp] theorem State.clearTlf_reg (s : State) (r : RegIndex) : (s.clearTlf).reg r = s.reg r := rfl

/-! `State.setBsf`. -/
@[simp] theorem State.setBsf_gpr (s : State) : (s.setBsf).gpr = s.gpr := rfl
@[simp] theorem State.setBsf_pc (s : State) : (s.setBsf).pc = s.pc := rfl
@[simp] theorem State.setBsf_nextPc (s : State) : (s.setBsf).nextPc = s.nextPc := rfl
@[simp] theorem State.setBsf_slot (s : State) : (s.setBsf).slot = s.slot := rfl
@[simp] theorem State.setBsf_hi (s : State) : (s.setBsf).hi = s.hi := rfl
@[simp] theorem State.setBsf_lo (s : State) : (s.setBsf).lo = s.lo := rfl
@[simp] theorem State.setBsf_hidden (s : State) : (s.setBsf).hidden = s.hidden := rfl
@[simp] theorem State.setBsf_platform (s : State) : (s.setBsf).platform = s.platform := rfl
@[simp] theorem State.setBsf_draws (s : State) : (s.setBsf).draws = s.draws := rfl
@[simp] theorem State.setBsf_bytes (s : State) : (s.setBsf).memory.bytes = s.memory.bytes := rfl
@[simp] theorem State.setBsf_buffer (s : State) : (s.setBsf).memory.buffer = s.memory.buffer := rfl
@[simp] theorem State.setBsf_dcache (s : State) : (s.setBsf).memory.dcache = s.memory.dcache := rfl
@[simp] theorem State.setBsf_lru (s : State) : (s.setBsf).memory.lru = s.memory.lru := rfl
@[simp] theorem State.setBsf_icache (s : State) : (s.setBsf).memory.icache = s.memory.icache := rfl
@[simp] theorem State.setBsf_stale (s : State) : (s.setBsf).memory.stale = s.memory.stale := rfl
@[simp] theorem State.setBsf_devices (s : State) : (s.setBsf).memory.devices = s.memory.devices := rfl
@[simp] theorem State.setBsf_drainedDevices (s : State) : (s.setBsf).drainedDevices = s.drainedDevices := rfl
@[simp] theorem State.setBsf_busByte (s : State) (a : Nat) : (s.setBsf).busByte a = s.busByte a := rfl
@[simp] theorem State.setBsf_reg (s : State) (r : RegIndex) : (s.setBsf).reg r = s.reg r := rfl

/-! `State.addLate`. -/
@[simp] theorem State.addLate_gpr (s : State) (rt : RegIndex) (b : Bool) : (s.addLate rt b).gpr = s.gpr := rfl
@[simp] theorem State.addLate_pc (s : State) (rt : RegIndex) (b : Bool) : (s.addLate rt b).pc = s.pc := rfl
@[simp] theorem State.addLate_nextPc (s : State) (rt : RegIndex) (b : Bool) : (s.addLate rt b).nextPc = s.nextPc :=
    rfl
@[simp] theorem State.addLate_slot (s : State) (rt : RegIndex) (b : Bool) : (s.addLate rt b).slot = s.slot := rfl
@[simp] theorem State.addLate_hi (s : State) (rt : RegIndex) (b : Bool) : (s.addLate rt b).hi = s.hi := rfl
@[simp] theorem State.addLate_lo (s : State) (rt : RegIndex) (b : Bool) : (s.addLate rt b).lo = s.lo := rfl
@[simp] theorem State.addLate_cp0 (s : State) (rt : RegIndex) (b : Bool) : (s.addLate rt b).cp0 = s.cp0 := rfl
@[simp] theorem State.addLate_platform (s : State) (rt : RegIndex) (b : Bool) : (s.addLate rt b).platform = s.platform :=
    rfl
@[simp] theorem State.addLate_draws (s : State) (rt : RegIndex) (b : Bool) : (s.addLate rt b).draws = s.draws := rfl
@[simp] theorem State.addLate_bytes (s : State) (rt : RegIndex) (b : Bool) : (s.addLate rt b).memory.bytes = s.memory.bytes :=
    rfl
@[simp] theorem State.addLate_buffer (s : State) (rt : RegIndex) (b : Bool) : (s.addLate rt b).memory.buffer = s.memory.buffer :=
    rfl
@[simp] theorem State.addLate_dcache (s : State) (rt : RegIndex) (b : Bool) : (s.addLate rt b).memory.dcache = s.memory.dcache :=
    rfl
@[simp] theorem State.addLate_lru (s : State) (rt : RegIndex) (b : Bool) : (s.addLate rt b).memory.lru = s.memory.lru :=
    rfl
@[simp] theorem State.addLate_icache (s : State) (rt : RegIndex) (b : Bool) : (s.addLate rt b).memory.icache = s.memory.icache :=
    rfl
@[simp] theorem State.addLate_stale (s : State) (rt : RegIndex) (b : Bool) : (s.addLate rt b).memory.stale = s.memory.stale :=
    rfl
@[simp] theorem State.addLate_devices (s : State) (rt : RegIndex) (b : Bool) : (s.addLate rt b).memory.devices = s.memory.devices :=
    rfl
@[simp] theorem State.addLate_drainedDevices (s : State) (rt : RegIndex) (b : Bool) : (s.addLate rt b).drainedDevices = s.drainedDevices :=
    rfl
@[simp] theorem State.addLate_busByte (s : State) (rt : RegIndex) (b : Bool) (a : Nat) : (s.addLate rt b).busByte a = s.busByte a :=
    rfl
@[simp] theorem State.addLate_reg (s : State) (rt : RegIndex) (b : Bool) (r : RegIndex) : (s.addLate rt b).reg r = s.reg r :=
    rfl

/-! `State.syncStale`. -/
@[simp] theorem State.syncStale_gpr (s : State) : (s.syncStale).gpr = s.gpr := rfl
@[simp] theorem State.syncStale_pc (s : State) : (s.syncStale).pc = s.pc := rfl
@[simp] theorem State.syncStale_nextPc (s : State) : (s.syncStale).nextPc = s.nextPc := rfl
@[simp] theorem State.syncStale_slot (s : State) : (s.syncStale).slot = s.slot := rfl
@[simp] theorem State.syncStale_hi (s : State) : (s.syncStale).hi = s.hi := rfl
@[simp] theorem State.syncStale_lo (s : State) : (s.syncStale).lo = s.lo := rfl
@[simp] theorem State.syncStale_cp0 (s : State) : (s.syncStale).cp0 = s.cp0 := rfl
@[simp] theorem State.syncStale_hidden (s : State) : (s.syncStale).hidden = s.hidden := rfl
@[simp] theorem State.syncStale_platform (s : State) : (s.syncStale).platform = s.platform := rfl
@[simp] theorem State.syncStale_draws (s : State) : (s.syncStale).draws = s.draws := rfl
@[simp] theorem State.syncStale_bytes (s : State) : (s.syncStale).memory.bytes = s.memory.bytes := rfl
@[simp] theorem State.syncStale_buffer (s : State) : (s.syncStale).memory.buffer = s.memory.buffer := rfl
@[simp] theorem State.syncStale_dcache (s : State) : (s.syncStale).memory.dcache = s.memory.dcache := rfl
@[simp] theorem State.syncStale_lru (s : State) : (s.syncStale).memory.lru = s.memory.lru := rfl
@[simp] theorem State.syncStale_icache (s : State) : (s.syncStale).memory.icache = s.memory.icache := rfl
@[simp] theorem State.syncStale_devices (s : State) : (s.syncStale).memory.devices = s.memory.devices := rfl
@[simp] theorem State.syncStale_drainedDevices (s : State) : (s.syncStale).drainedDevices = s.drainedDevices := rfl
@[simp] theorem State.syncStale_busByte (s : State) (a : Nat) : (s.syncStale).busByte a = s.busByte a := rfl
@[simp] theorem State.syncStale_reg (s : State) (r : RegIndex) : (s.syncStale).reg r = s.reg r := rfl

/-! `State.syncStaleIf`. -/
@[simp] theorem State.syncStaleIf_gpr (s : State) (b : Bool) : (s.syncStaleIf b).gpr = s.gpr := by
  simp only [State.syncStaleIf]; repeat' split <;> try rfl
@[simp] theorem State.syncStaleIf_pc (s : State) (b : Bool) : (s.syncStaleIf b).pc = s.pc := by
  simp only [State.syncStaleIf]; repeat' split <;> try rfl
@[simp] theorem State.syncStaleIf_nextPc (s : State) (b : Bool) : (s.syncStaleIf b).nextPc = s.nextPc := by
  simp only [State.syncStaleIf]; repeat' split <;> try rfl
@[simp] theorem State.syncStaleIf_slot (s : State) (b : Bool) : (s.syncStaleIf b).slot = s.slot := by
  simp only [State.syncStaleIf]; repeat' split <;> try rfl
@[simp] theorem State.syncStaleIf_hi (s : State) (b : Bool) : (s.syncStaleIf b).hi = s.hi := by
  simp only [State.syncStaleIf]; repeat' split <;> try rfl
@[simp] theorem State.syncStaleIf_lo (s : State) (b : Bool) : (s.syncStaleIf b).lo = s.lo := by
  simp only [State.syncStaleIf]; repeat' split <;> try rfl
@[simp] theorem State.syncStaleIf_cp0 (s : State) (b : Bool) : (s.syncStaleIf b).cp0 = s.cp0 := by
  simp only [State.syncStaleIf]; repeat' split <;> try rfl
@[simp] theorem State.syncStaleIf_hidden (s : State) (b : Bool) : (s.syncStaleIf b).hidden = s.hidden := by
  simp only [State.syncStaleIf]; repeat' split <;> try rfl
@[simp] theorem State.syncStaleIf_platform (s : State) (b : Bool) : (s.syncStaleIf b).platform = s.platform := by
  simp only [State.syncStaleIf]; repeat' split <;> try rfl
@[simp] theorem State.syncStaleIf_draws (s : State) (b : Bool) : (s.syncStaleIf b).draws = s.draws := by
  simp only [State.syncStaleIf]; repeat' split <;> try rfl
@[simp] theorem State.syncStaleIf_bytes (s : State) (b : Bool) : (s.syncStaleIf b).memory.bytes = s.memory.bytes := by
  simp only [State.syncStaleIf]; repeat' split <;> try rfl
@[simp] theorem State.syncStaleIf_buffer (s : State) (b : Bool) : (s.syncStaleIf b).memory.buffer = s.memory.buffer := by
  simp only [State.syncStaleIf]; repeat' split <;> try rfl
@[simp] theorem State.syncStaleIf_dcache (s : State) (b : Bool) : (s.syncStaleIf b).memory.dcache = s.memory.dcache := by
  simp only [State.syncStaleIf]; repeat' split <;> try rfl
@[simp] theorem State.syncStaleIf_lru (s : State) (b : Bool) : (s.syncStaleIf b).memory.lru = s.memory.lru := by
  simp only [State.syncStaleIf]; repeat' split <;> try rfl
@[simp] theorem State.syncStaleIf_icache (s : State) (b : Bool) : (s.syncStaleIf b).memory.icache = s.memory.icache := by
  simp only [State.syncStaleIf]; repeat' split <;> try rfl
@[simp] theorem State.syncStaleIf_devices (s : State) (b : Bool) : (s.syncStaleIf b).memory.devices = s.memory.devices := by
  simp only [State.syncStaleIf]; repeat' split <;> try rfl
@[simp] theorem State.syncStaleIf_drainedDevices (s : State) (b : Bool) : (s.syncStaleIf b).drainedDevices = s.drainedDevices := by
  simp only [State.syncStaleIf]; repeat' split <;> try rfl
@[simp] theorem State.syncStaleIf_busByte (s : State) (b : Bool) (a : Nat) : (s.syncStaleIf b).busByte a = s.busByte a := by
  simp only [State.syncStaleIf]; repeat' split <;> try rfl
@[simp] theorem State.syncStaleIf_reg (s : State) (b : Bool) (r : RegIndex) : (s.syncStaleIf b).reg r = s.reg r := by
  simp only [State.syncStaleIf]; repeat' split <;> try rfl

/-! `State.withWindows`. -/
@[simp] theorem State.withWindows_gpr (s : State) (w : Windows) : (s.withWindows w).gpr = s.gpr := rfl
@[simp] theorem State.withWindows_pc (s : State) (w : Windows) : (s.withWindows w).pc = s.pc := rfl
@[simp] theorem State.withWindows_nextPc (s : State) (w : Windows) : (s.withWindows w).nextPc = s.nextPc := rfl
@[simp] theorem State.withWindows_slot (s : State) (w : Windows) : (s.withWindows w).slot = s.slot := rfl
@[simp] theorem State.withWindows_hi (s : State) (w : Windows) : (s.withWindows w).hi = s.hi := rfl
@[simp] theorem State.withWindows_lo (s : State) (w : Windows) : (s.withWindows w).lo = s.lo := rfl
@[simp] theorem State.withWindows_cp0 (s : State) (w : Windows) : (s.withWindows w).cp0 = s.cp0 := rfl
@[simp] theorem State.withWindows_platform (s : State) (w : Windows) : (s.withWindows w).platform = s.platform := rfl
@[simp] theorem State.withWindows_draws (s : State) (w : Windows) : (s.withWindows w).draws = s.draws := rfl
@[simp] theorem State.withWindows_bytes (s : State) (w : Windows) : (s.withWindows w).memory.bytes = s.memory.bytes :=
    rfl
@[simp] theorem State.withWindows_buffer (s : State) (w : Windows) : (s.withWindows w).memory.buffer = s.memory.buffer :=
    rfl
@[simp] theorem State.withWindows_dcache (s : State) (w : Windows) : (s.withWindows w).memory.dcache = s.memory.dcache :=
    rfl
@[simp] theorem State.withWindows_lru (s : State) (w : Windows) : (s.withWindows w).memory.lru = s.memory.lru := rfl
@[simp] theorem State.withWindows_icache (s : State) (w : Windows) : (s.withWindows w).memory.icache = s.memory.icache :=
    rfl
@[simp] theorem State.withWindows_stale (s : State) (w : Windows) : (s.withWindows w).memory.stale = s.memory.stale :=
    rfl
@[simp] theorem State.withWindows_devices (s : State) (w : Windows) : (s.withWindows w).memory.devices = s.memory.devices :=
    rfl
@[simp] theorem State.withWindows_drainedDevices (s : State) (w : Windows) : (s.withWindows w).drainedDevices = s.drainedDevices :=
    rfl
@[simp] theorem State.withWindows_busByte (s : State) (w : Windows) (a : Nat) : (s.withWindows w).busByte a = s.busByte a :=
    rfl
@[simp] theorem State.withWindows_reg (s : State) (w : Windows) (r : RegIndex) : (s.withWindows w).reg r = s.reg r :=
    rfl

/-! `State.writeCp0`. -/
@[simp] theorem State.writeCp0_gpr (s : State) (rd : RegIndex) (v : Word) : (s.writeCp0 rd v).gpr = s.gpr := by
  simp only [State.writeCp0]; repeat' split <;> try rfl
@[simp] theorem State.writeCp0_pc (s : State) (rd : RegIndex) (v : Word) : (s.writeCp0 rd v).pc = s.pc := by
  simp only [State.writeCp0]; repeat' split <;> try rfl
@[simp] theorem State.writeCp0_nextPc (s : State) (rd : RegIndex) (v : Word) : (s.writeCp0 rd v).nextPc = s.nextPc := by
  simp only [State.writeCp0]; repeat' split <;> try rfl
@[simp] theorem State.writeCp0_slot (s : State) (rd : RegIndex) (v : Word) : (s.writeCp0 rd v).slot = s.slot := by
  simp only [State.writeCp0]; repeat' split <;> try rfl
@[simp] theorem State.writeCp0_hi (s : State) (rd : RegIndex) (v : Word) : (s.writeCp0 rd v).hi = s.hi := by
  simp only [State.writeCp0]; repeat' split <;> try rfl
@[simp] theorem State.writeCp0_lo (s : State) (rd : RegIndex) (v : Word) : (s.writeCp0 rd v).lo = s.lo := by
  simp only [State.writeCp0]; repeat' split <;> try rfl
@[simp] theorem State.writeCp0_hidden (s : State) (rd : RegIndex) (v : Word) : (s.writeCp0 rd v).hidden = s.hidden := by
  simp only [State.writeCp0]; repeat' split <;> try rfl
@[simp] theorem State.writeCp0_platform (s : State) (rd : RegIndex) (v : Word) : (s.writeCp0 rd v).platform = s.platform := by
  simp only [State.writeCp0]; repeat' split <;> try rfl
@[simp] theorem State.writeCp0_draws (s : State) (rd : RegIndex) (v : Word) : (s.writeCp0 rd v).draws = s.draws := by
  simp only [State.writeCp0]; repeat' split <;> try rfl
@[simp] theorem State.writeCp0_bytes (s : State) (rd : RegIndex) (v : Word) : (s.writeCp0 rd v).memory.bytes = s.memory.bytes := by
  simp only [State.writeCp0]; repeat' split <;> try rfl
@[simp] theorem State.writeCp0_buffer (s : State) (rd : RegIndex) (v : Word) : (s.writeCp0 rd v).memory.buffer = s.memory.buffer := by
  simp only [State.writeCp0]; repeat' split <;> try rfl
@[simp] theorem State.writeCp0_dcache (s : State) (rd : RegIndex) (v : Word) : (s.writeCp0 rd v).memory.dcache = s.memory.dcache := by
  simp only [State.writeCp0]; repeat' split <;> try rfl
@[simp] theorem State.writeCp0_lru (s : State) (rd : RegIndex) (v : Word) : (s.writeCp0 rd v).memory.lru = s.memory.lru := by
  simp only [State.writeCp0]; repeat' split <;> try rfl
@[simp] theorem State.writeCp0_icache (s : State) (rd : RegIndex) (v : Word) : (s.writeCp0 rd v).memory.icache = s.memory.icache := by
  simp only [State.writeCp0]; repeat' split <;> try rfl
@[simp] theorem State.writeCp0_stale (s : State) (rd : RegIndex) (v : Word) : (s.writeCp0 rd v).memory.stale = s.memory.stale := by
  simp only [State.writeCp0]; repeat' split <;> try rfl
@[simp] theorem State.writeCp0_devices (s : State) (rd : RegIndex) (v : Word) : (s.writeCp0 rd v).memory.devices = s.memory.devices := by
  simp only [State.writeCp0]; repeat' split <;> try rfl
@[simp] theorem State.writeCp0_drainedDevices (s : State) (rd : RegIndex) (v : Word) : (s.writeCp0 rd v).drainedDevices = s.drainedDevices := by
  simp only [State.writeCp0]; repeat' split <;> try rfl
@[simp] theorem State.writeCp0_busByte (s : State) (rd : RegIndex) (v : Word) (a : Nat) : (s.writeCp0 rd v).busByte a = s.busByte a := by
  simp only [State.writeCp0]; repeat' split <;> try rfl
@[simp] theorem State.writeCp0_reg (s : State) (rd : RegIndex) (v : Word) (r : RegIndex) : (s.writeCp0 rd v).reg r = s.reg r := by
  simp only [State.writeCp0]; repeat' split <;> try rfl

/-! `State.drain`. -/
@[simp] theorem State.drain_gpr (s : State) : (s.drain).gpr = s.gpr := rfl
@[simp] theorem State.drain_pc (s : State) : (s.drain).pc = s.pc := rfl
@[simp] theorem State.drain_nextPc (s : State) : (s.drain).nextPc = s.nextPc := rfl
@[simp] theorem State.drain_slot (s : State) : (s.drain).slot = s.slot := rfl
@[simp] theorem State.drain_hi (s : State) : (s.drain).hi = s.hi := rfl
@[simp] theorem State.drain_lo (s : State) : (s.drain).lo = s.lo := rfl
@[simp] theorem State.drain_cp0 (s : State) : (s.drain).cp0 = s.cp0 := rfl
@[simp] theorem State.drain_hidden (s : State) : (s.drain).hidden = s.hidden := rfl
@[simp] theorem State.drain_platform (s : State) : (s.drain).platform = s.platform := rfl
@[simp] theorem State.drain_draws (s : State) : (s.drain).draws = s.draws := rfl
@[simp] theorem State.drain_dcache (s : State) : (s.drain).memory.dcache = s.memory.dcache := rfl
@[simp] theorem State.drain_lru (s : State) : (s.drain).memory.lru = s.memory.lru := rfl
@[simp] theorem State.drain_icache (s : State) : (s.drain).memory.icache = s.memory.icache := rfl
@[simp] theorem State.drain_stale (s : State) : (s.drain).memory.stale = s.memory.stale := rfl
@[simp] theorem State.drain_drainedDevices (s : State) : (s.drain).drainedDevices = s.drainedDevices := rfl
@[simp] theorem State.drain_busByte (s : State) (a : Nat) : (s.drain).busByte a = s.busByte a := rfl
@[simp] theorem State.drain_reg (s : State) (r : RegIndex) : (s.drain).reg r = s.reg r := rfl

/-! `State.drainIfStopped`. -/
@[simp] theorem State.drainIfStopped_gpr (s : State) : (s.drainIfStopped).gpr = s.gpr := by
  simp only [State.drainIfStopped]; repeat' split <;> try rfl
@[simp] theorem State.drainIfStopped_pc (s : State) : (s.drainIfStopped).pc = s.pc := by
  simp only [State.drainIfStopped]; repeat' split <;> try rfl
@[simp] theorem State.drainIfStopped_nextPc (s : State) : (s.drainIfStopped).nextPc = s.nextPc := by
  simp only [State.drainIfStopped]; repeat' split <;> try rfl
@[simp] theorem State.drainIfStopped_slot (s : State) : (s.drainIfStopped).slot = s.slot := by
  simp only [State.drainIfStopped]; repeat' split <;> try rfl
@[simp] theorem State.drainIfStopped_hi (s : State) : (s.drainIfStopped).hi = s.hi := by
  simp only [State.drainIfStopped]; repeat' split <;> try rfl
@[simp] theorem State.drainIfStopped_lo (s : State) : (s.drainIfStopped).lo = s.lo := by
  simp only [State.drainIfStopped]; repeat' split <;> try rfl
@[simp] theorem State.drainIfStopped_cp0 (s : State) : (s.drainIfStopped).cp0 = s.cp0 := by
  simp only [State.drainIfStopped]; repeat' split <;> try rfl
@[simp] theorem State.drainIfStopped_hidden (s : State) : (s.drainIfStopped).hidden = s.hidden := by
  simp only [State.drainIfStopped]; repeat' split <;> try rfl
@[simp] theorem State.drainIfStopped_platform (s : State) : (s.drainIfStopped).platform = s.platform := by
  simp only [State.drainIfStopped]; repeat' split <;> try rfl
@[simp] theorem State.drainIfStopped_draws (s : State) : (s.drainIfStopped).draws = s.draws := by
  simp only [State.drainIfStopped]; repeat' split <;> try rfl
@[simp] theorem State.drainIfStopped_dcache (s : State) : (s.drainIfStopped).memory.dcache = s.memory.dcache := by
  simp only [State.drainIfStopped]; repeat' split <;> try rfl
@[simp] theorem State.drainIfStopped_lru (s : State) : (s.drainIfStopped).memory.lru = s.memory.lru := by
  simp only [State.drainIfStopped]; repeat' split <;> try rfl
@[simp] theorem State.drainIfStopped_icache (s : State) : (s.drainIfStopped).memory.icache = s.memory.icache := by
  simp only [State.drainIfStopped]; repeat' split <;> try rfl
@[simp] theorem State.drainIfStopped_stale (s : State) : (s.drainIfStopped).memory.stale = s.memory.stale := by
  simp only [State.drainIfStopped]; repeat' split <;> try rfl
@[simp] theorem State.drainIfStopped_drainedDevices (s : State) : (s.drainIfStopped).drainedDevices = s.drainedDevices := by
  simp only [State.drainIfStopped]; repeat' split <;> try rfl
@[simp] theorem State.drainIfStopped_busByte (s : State) (a : Nat) : (s.drainIfStopped).busByte a = s.busByte a := by
  simp only [State.drainIfStopped]; repeat' split <;> try rfl
@[simp] theorem State.drainIfStopped_reg (s : State) (r : RegIndex) : (s.drainIfStopped).reg r = s.reg r := by
  simp only [State.drainIfStopped]; repeat' split <;> try rfl

/-! `State.drainOldest`. -/
@[simp] theorem State.drainOldest_gpr (s : State) : (s.drainOldest).gpr = s.gpr := by
  simp only [State.drainOldest]; repeat' split <;> try rfl
@[simp] theorem State.drainOldest_pc (s : State) : (s.drainOldest).pc = s.pc := by
  simp only [State.drainOldest]; repeat' split <;> try rfl
@[simp] theorem State.drainOldest_nextPc (s : State) : (s.drainOldest).nextPc = s.nextPc := by
  simp only [State.drainOldest]; repeat' split <;> try rfl
@[simp] theorem State.drainOldest_slot (s : State) : (s.drainOldest).slot = s.slot := by
  simp only [State.drainOldest]; repeat' split <;> try rfl
@[simp] theorem State.drainOldest_hi (s : State) : (s.drainOldest).hi = s.hi := by
  simp only [State.drainOldest]; repeat' split <;> try rfl
@[simp] theorem State.drainOldest_lo (s : State) : (s.drainOldest).lo = s.lo := by
  simp only [State.drainOldest]; repeat' split <;> try rfl
@[simp] theorem State.drainOldest_cp0 (s : State) : (s.drainOldest).cp0 = s.cp0 := by
  simp only [State.drainOldest]; repeat' split <;> try rfl
@[simp] theorem State.drainOldest_hidden (s : State) : (s.drainOldest).hidden = s.hidden := by
  simp only [State.drainOldest]; repeat' split <;> try rfl
@[simp] theorem State.drainOldest_platform (s : State) : (s.drainOldest).platform = s.platform := by
  simp only [State.drainOldest]; repeat' split <;> try rfl
@[simp] theorem State.drainOldest_draws (s : State) : (s.drainOldest).draws = s.draws := by
  simp only [State.drainOldest]; repeat' split <;> try rfl
@[simp] theorem State.drainOldest_dcache (s : State) : (s.drainOldest).memory.dcache = s.memory.dcache := by
  simp only [State.drainOldest]; repeat' split <;> try rfl
@[simp] theorem State.drainOldest_lru (s : State) : (s.drainOldest).memory.lru = s.memory.lru := by
  simp only [State.drainOldest]; repeat' split <;> try rfl
@[simp] theorem State.drainOldest_icache (s : State) : (s.drainOldest).memory.icache = s.memory.icache := by
  simp only [State.drainOldest]; repeat' split <;> try rfl
@[simp] theorem State.drainOldest_stale (s : State) : (s.drainOldest).memory.stale = s.memory.stale := by
  simp only [State.drainOldest]; repeat' split <;> try rfl
@[simp] theorem State.drainOldest_reg (s : State) (r : RegIndex) : (s.drainOldest).reg r = s.reg r := by
  simp only [State.drainOldest]; repeat' split <;> try rfl

/-! `State.recordAccess`. -/
@[simp] theorem State.recordAccess_gpr (s : State) (d : DeviceAccess) : (s.recordAccess d).gpr = s.gpr := rfl
@[simp] theorem State.recordAccess_pc (s : State) (d : DeviceAccess) : (s.recordAccess d).pc = s.pc := rfl
@[simp] theorem State.recordAccess_nextPc (s : State) (d : DeviceAccess) : (s.recordAccess d).nextPc = s.nextPc := rfl
@[simp] theorem State.recordAccess_slot (s : State) (d : DeviceAccess) : (s.recordAccess d).slot = s.slot := rfl
@[simp] theorem State.recordAccess_hi (s : State) (d : DeviceAccess) : (s.recordAccess d).hi = s.hi := rfl
@[simp] theorem State.recordAccess_lo (s : State) (d : DeviceAccess) : (s.recordAccess d).lo = s.lo := rfl
@[simp] theorem State.recordAccess_cp0 (s : State) (d : DeviceAccess) : (s.recordAccess d).cp0 = s.cp0 := rfl
@[simp] theorem State.recordAccess_hidden (s : State) (d : DeviceAccess) : (s.recordAccess d).hidden = s.hidden := rfl
@[simp] theorem State.recordAccess_platform (s : State) (d : DeviceAccess) : (s.recordAccess d).platform = s.platform :=
    rfl
@[simp] theorem State.recordAccess_draws (s : State) (d : DeviceAccess) : (s.recordAccess d).draws = s.draws := rfl
@[simp] theorem State.recordAccess_bytes (s : State) (d : DeviceAccess) : (s.recordAccess d).memory.bytes = s.memory.bytes :=
    rfl
@[simp] theorem State.recordAccess_buffer (s : State) (d : DeviceAccess) : (s.recordAccess d).memory.buffer = s.memory.buffer :=
    rfl
@[simp] theorem State.recordAccess_dcache (s : State) (d : DeviceAccess) : (s.recordAccess d).memory.dcache = s.memory.dcache :=
    rfl
@[simp] theorem State.recordAccess_lru (s : State) (d : DeviceAccess) : (s.recordAccess d).memory.lru = s.memory.lru :=
    rfl
@[simp] theorem State.recordAccess_icache (s : State) (d : DeviceAccess) : (s.recordAccess d).memory.icache = s.memory.icache :=
    rfl
@[simp] theorem State.recordAccess_stale (s : State) (d : DeviceAccess) : (s.recordAccess d).memory.stale = s.memory.stale :=
    rfl
@[simp] theorem State.recordAccess_busByte (s : State) (d : DeviceAccess) (a : Nat) : (s.recordAccess d).busByte a = s.busByte a :=
    rfl
@[simp] theorem State.recordAccess_reg (s : State) (d : DeviceAccess) (r : RegIndex) : (s.recordAccess d).reg r = s.reg r :=
    rfl

/-! `State.seenByDevices`. -/
@[simp] theorem State.seenByDevices_gpr (s : State) (l : List Nat) (f : List Nat → DeviceAccess) : (s.seenByDevices l f).gpr = s.gpr := by
  simp only [State.seenByDevices]; repeat' split <;> try rfl
@[simp] theorem State.seenByDevices_pc (s : State) (l : List Nat) (f : List Nat → DeviceAccess) : (s.seenByDevices l f).pc = s.pc := by
  simp only [State.seenByDevices]; repeat' split <;> try rfl
@[simp] theorem State.seenByDevices_nextPc (s : State) (l : List Nat) (f : List Nat → DeviceAccess) : (s.seenByDevices l f).nextPc = s.nextPc := by
  simp only [State.seenByDevices]; repeat' split <;> try rfl
@[simp] theorem State.seenByDevices_slot (s : State) (l : List Nat) (f : List Nat → DeviceAccess) : (s.seenByDevices l f).slot = s.slot := by
  simp only [State.seenByDevices]; repeat' split <;> try rfl
@[simp] theorem State.seenByDevices_hi (s : State) (l : List Nat) (f : List Nat → DeviceAccess) : (s.seenByDevices l f).hi = s.hi := by
  simp only [State.seenByDevices]; repeat' split <;> try rfl
@[simp] theorem State.seenByDevices_lo (s : State) (l : List Nat) (f : List Nat → DeviceAccess) : (s.seenByDevices l f).lo = s.lo := by
  simp only [State.seenByDevices]; repeat' split <;> try rfl
@[simp] theorem State.seenByDevices_cp0 (s : State) (l : List Nat) (f : List Nat → DeviceAccess) : (s.seenByDevices l f).cp0 = s.cp0 := by
  simp only [State.seenByDevices]; repeat' split <;> try rfl
@[simp] theorem State.seenByDevices_hidden (s : State) (l : List Nat) (f : List Nat → DeviceAccess) : (s.seenByDevices l f).hidden = s.hidden := by
  simp only [State.seenByDevices]; repeat' split <;> try rfl
@[simp] theorem State.seenByDevices_platform (s : State) (l : List Nat) (f : List Nat → DeviceAccess) : (s.seenByDevices l f).platform = s.platform := by
  simp only [State.seenByDevices]; repeat' split <;> try rfl
@[simp] theorem State.seenByDevices_draws (s : State) (l : List Nat) (f : List Nat → DeviceAccess) : (s.seenByDevices l f).draws = s.draws := by
  simp only [State.seenByDevices]; repeat' split <;> try rfl
@[simp] theorem State.seenByDevices_bytes (s : State) (l : List Nat) (f : List Nat → DeviceAccess) : (s.seenByDevices l f).memory.bytes = s.memory.bytes := by
  simp only [State.seenByDevices]; repeat' split <;> try rfl
@[simp] theorem State.seenByDevices_buffer (s : State) (l : List Nat) (f : List Nat → DeviceAccess) : (s.seenByDevices l f).memory.buffer = s.memory.buffer := by
  simp only [State.seenByDevices]; repeat' split <;> try rfl
@[simp] theorem State.seenByDevices_dcache (s : State) (l : List Nat) (f : List Nat → DeviceAccess) : (s.seenByDevices l f).memory.dcache = s.memory.dcache := by
  simp only [State.seenByDevices]; repeat' split <;> try rfl
@[simp] theorem State.seenByDevices_lru (s : State) (l : List Nat) (f : List Nat → DeviceAccess) : (s.seenByDevices l f).memory.lru = s.memory.lru := by
  simp only [State.seenByDevices]; repeat' split <;> try rfl
@[simp] theorem State.seenByDevices_icache (s : State) (l : List Nat) (f : List Nat → DeviceAccess) : (s.seenByDevices l f).memory.icache = s.memory.icache := by
  simp only [State.seenByDevices]; repeat' split <;> try rfl
@[simp] theorem State.seenByDevices_stale (s : State) (l : List Nat) (f : List Nat → DeviceAccess) : (s.seenByDevices l f).memory.stale = s.memory.stale := by
  simp only [State.seenByDevices]; repeat' split <;> try rfl
@[simp] theorem State.seenByDevices_busByte (s : State) (l : List Nat) (f : List Nat → DeviceAccess) (a : Nat) : (s.seenByDevices l f).busByte a = s.busByte a := by
  simp only [State.seenByDevices]; repeat' split <;> try rfl
@[simp] theorem State.seenByDevices_reg (s : State) (l : List Nat) (f : List Nat → DeviceAccess) (r : RegIndex) : (s.seenByDevices l f).reg r = s.reg r := by
  simp only [State.seenByDevices]; repeat' split <;> try rfl

/-! `State.writeSet`. -/
@[simp] theorem State.writeSet_gpr (s : State) (i : Nat) (c : CacheSet) : (s.writeSet i c).gpr = s.gpr := rfl
@[simp] theorem State.writeSet_pc (s : State) (i : Nat) (c : CacheSet) : (s.writeSet i c).pc = s.pc := rfl
@[simp] theorem State.writeSet_nextPc (s : State) (i : Nat) (c : CacheSet) : (s.writeSet i c).nextPc = s.nextPc := rfl
@[simp] theorem State.writeSet_slot (s : State) (i : Nat) (c : CacheSet) : (s.writeSet i c).slot = s.slot := rfl
@[simp] theorem State.writeSet_hi (s : State) (i : Nat) (c : CacheSet) : (s.writeSet i c).hi = s.hi := rfl
@[simp] theorem State.writeSet_lo (s : State) (i : Nat) (c : CacheSet) : (s.writeSet i c).lo = s.lo := rfl
@[simp] theorem State.writeSet_cp0 (s : State) (i : Nat) (c : CacheSet) : (s.writeSet i c).cp0 = s.cp0 := rfl
@[simp] theorem State.writeSet_hidden (s : State) (i : Nat) (c : CacheSet) : (s.writeSet i c).hidden = s.hidden := rfl
@[simp] theorem State.writeSet_platform (s : State) (i : Nat) (c : CacheSet) : (s.writeSet i c).platform = s.platform :=
    rfl
@[simp] theorem State.writeSet_draws (s : State) (i : Nat) (c : CacheSet) : (s.writeSet i c).draws = s.draws := rfl
@[simp] theorem State.writeSet_bytes (s : State) (i : Nat) (c : CacheSet) : (s.writeSet i c).memory.bytes = s.memory.bytes :=
    rfl
@[simp] theorem State.writeSet_buffer (s : State) (i : Nat) (c : CacheSet) : (s.writeSet i c).memory.buffer = s.memory.buffer :=
    rfl
@[simp] theorem State.writeSet_icache (s : State) (i : Nat) (c : CacheSet) : (s.writeSet i c).memory.icache = s.memory.icache :=
    rfl
@[simp] theorem State.writeSet_stale (s : State) (i : Nat) (c : CacheSet) : (s.writeSet i c).memory.stale = s.memory.stale :=
    rfl
@[simp] theorem State.writeSet_devices (s : State) (i : Nat) (c : CacheSet) : (s.writeSet i c).memory.devices = s.memory.devices :=
    rfl
@[simp] theorem State.writeSet_drainedDevices (s : State) (i : Nat) (c : CacheSet) : (s.writeSet i c).drainedDevices = s.drainedDevices :=
    rfl
@[simp] theorem State.writeSet_busByte (s : State) (i : Nat) (c : CacheSet) (a : Nat) : (s.writeSet i c).busByte a = s.busByte a :=
    rfl
@[simp] theorem State.writeSet_reg (s : State) (i : Nat) (c : CacheSet) (r : RegIndex) : (s.writeSet i c).reg r = s.reg r :=
    rfl

/-! `State.pushWrite`. -/
@[simp] theorem State.pushWrite_gpr (s : State) (cells : List Host.Cell) : (s.pushWrite cells).gpr = s.gpr := rfl
@[simp] theorem State.pushWrite_pc (s : State) (cells : List Host.Cell) : (s.pushWrite cells).pc = s.pc := rfl
@[simp] theorem State.pushWrite_nextPc (s : State) (cells : List Host.Cell) : (s.pushWrite cells).nextPc = s.nextPc :=
    rfl
@[simp] theorem State.pushWrite_slot (s : State) (cells : List Host.Cell) : (s.pushWrite cells).slot = s.slot := rfl
@[simp] theorem State.pushWrite_hi (s : State) (cells : List Host.Cell) : (s.pushWrite cells).hi = s.hi := rfl
@[simp] theorem State.pushWrite_lo (s : State) (cells : List Host.Cell) : (s.pushWrite cells).lo = s.lo := rfl
@[simp] theorem State.pushWrite_cp0 (s : State) (cells : List Host.Cell) : (s.pushWrite cells).cp0 = s.cp0 := rfl
@[simp] theorem State.pushWrite_hidden (s : State) (cells : List Host.Cell) : (s.pushWrite cells).hidden = s.hidden :=
    rfl
@[simp] theorem State.pushWrite_platform (s : State) (cells : List Host.Cell) : (s.pushWrite cells).platform = s.platform :=
    rfl
@[simp] theorem State.pushWrite_draws (s : State) (cells : List Host.Cell) : (s.pushWrite cells).draws = s.draws :=
    rfl
@[simp] theorem State.pushWrite_bytes (s : State) (cells : List Host.Cell) : (s.pushWrite cells).memory.bytes = s.memory.bytes :=
    rfl
@[simp] theorem State.pushWrite_dcache (s : State) (cells : List Host.Cell) : (s.pushWrite cells).memory.dcache = s.memory.dcache :=
    rfl
@[simp] theorem State.pushWrite_lru (s : State) (cells : List Host.Cell) : (s.pushWrite cells).memory.lru = s.memory.lru :=
    rfl
@[simp] theorem State.pushWrite_icache (s : State) (cells : List Host.Cell) : (s.pushWrite cells).memory.icache = s.memory.icache :=
    rfl
@[simp] theorem State.pushWrite_stale (s : State) (cells : List Host.Cell) : (s.pushWrite cells).memory.stale = s.memory.stale :=
    rfl
@[simp] theorem State.pushWrite_devices (s : State) (cells : List Host.Cell) : (s.pushWrite cells).memory.devices = s.memory.devices :=
    rfl
@[simp] theorem State.pushWrite_reg (s : State) (cells : List Host.Cell) (r : RegIndex) : (s.pushWrite cells).reg r = s.reg r :=
    rfl

/-! `State.addStale`. -/
@[simp] theorem State.addStale_gpr (s : State) (w b : Nat) (x : Bool) : (s.addStale w b x).gpr = s.gpr := rfl
@[simp] theorem State.addStale_pc (s : State) (w b : Nat) (x : Bool) : (s.addStale w b x).pc = s.pc := rfl
@[simp] theorem State.addStale_nextPc (s : State) (w b : Nat) (x : Bool) : (s.addStale w b x).nextPc = s.nextPc := rfl
@[simp] theorem State.addStale_slot (s : State) (w b : Nat) (x : Bool) : (s.addStale w b x).slot = s.slot := rfl
@[simp] theorem State.addStale_hi (s : State) (w b : Nat) (x : Bool) : (s.addStale w b x).hi = s.hi := rfl
@[simp] theorem State.addStale_lo (s : State) (w b : Nat) (x : Bool) : (s.addStale w b x).lo = s.lo := rfl
@[simp] theorem State.addStale_cp0 (s : State) (w b : Nat) (x : Bool) : (s.addStale w b x).cp0 = s.cp0 := rfl
@[simp] theorem State.addStale_hidden (s : State) (w b : Nat) (x : Bool) : (s.addStale w b x).hidden = s.hidden := rfl
@[simp] theorem State.addStale_platform (s : State) (w b : Nat) (x : Bool) : (s.addStale w b x).platform = s.platform :=
    rfl
@[simp] theorem State.addStale_draws (s : State) (w b : Nat) (x : Bool) : (s.addStale w b x).draws = s.draws := rfl
@[simp] theorem State.addStale_bytes (s : State) (w b : Nat) (x : Bool) : (s.addStale w b x).memory.bytes = s.memory.bytes :=
    rfl
@[simp] theorem State.addStale_buffer (s : State) (w b : Nat) (x : Bool) : (s.addStale w b x).memory.buffer = s.memory.buffer :=
    rfl
@[simp] theorem State.addStale_dcache (s : State) (w b : Nat) (x : Bool) : (s.addStale w b x).memory.dcache = s.memory.dcache :=
    rfl
@[simp] theorem State.addStale_lru (s : State) (w b : Nat) (x : Bool) : (s.addStale w b x).memory.lru = s.memory.lru :=
    rfl
@[simp] theorem State.addStale_icache (s : State) (w b : Nat) (x : Bool) : (s.addStale w b x).memory.icache = s.memory.icache :=
    rfl
@[simp] theorem State.addStale_devices (s : State) (w b : Nat) (x : Bool) : (s.addStale w b x).memory.devices = s.memory.devices :=
    rfl
@[simp] theorem State.addStale_drainedDevices (s : State) (w b : Nat) (x : Bool) : (s.addStale w b x).drainedDevices = s.drainedDevices :=
    rfl
@[simp] theorem State.addStale_busByte (s : State) (w b : Nat) (x : Bool) (a : Nat) : (s.addStale w b x).busByte a = s.busByte a :=
    rfl
@[simp] theorem State.addStale_reg (s : State) (w b : Nat) (x : Bool) (r : RegIndex) : (s.addStale w b x).reg r = s.reg r :=
    rfl

/-! `State.indexInvalidate`. -/
@[simp] theorem State.indexInvalidate_gpr (s : State) (p : Nat) : (s.indexInvalidate p).gpr = s.gpr := rfl
@[simp] theorem State.indexInvalidate_pc (s : State) (p : Nat) : (s.indexInvalidate p).pc = s.pc := rfl
@[simp] theorem State.indexInvalidate_nextPc (s : State) (p : Nat) : (s.indexInvalidate p).nextPc = s.nextPc := rfl
@[simp] theorem State.indexInvalidate_slot (s : State) (p : Nat) : (s.indexInvalidate p).slot = s.slot := rfl
@[simp] theorem State.indexInvalidate_hi (s : State) (p : Nat) : (s.indexInvalidate p).hi = s.hi := rfl
@[simp] theorem State.indexInvalidate_lo (s : State) (p : Nat) : (s.indexInvalidate p).lo = s.lo := rfl
@[simp] theorem State.indexInvalidate_cp0 (s : State) (p : Nat) : (s.indexInvalidate p).cp0 = s.cp0 := rfl
@[simp] theorem State.indexInvalidate_hidden (s : State) (p : Nat) : (s.indexInvalidate p).hidden = s.hidden := rfl
@[simp] theorem State.indexInvalidate_platform (s : State) (p : Nat) : (s.indexInvalidate p).platform = s.platform :=
    rfl
@[simp] theorem State.indexInvalidate_draws (s : State) (p : Nat) : (s.indexInvalidate p).draws = s.draws := rfl
@[simp] theorem State.indexInvalidate_bytes (s : State) (p : Nat) : (s.indexInvalidate p).memory.bytes = s.memory.bytes :=
    rfl
@[simp] theorem State.indexInvalidate_buffer (s : State) (p : Nat) : (s.indexInvalidate p).memory.buffer = s.memory.buffer :=
    rfl
@[simp] theorem State.indexInvalidate_dcache (s : State) (p : Nat) : (s.indexInvalidate p).memory.dcache = s.memory.dcache :=
    rfl
@[simp] theorem State.indexInvalidate_lru (s : State) (p : Nat) : (s.indexInvalidate p).memory.lru = s.memory.lru :=
    rfl
@[simp] theorem State.indexInvalidate_devices (s : State) (p : Nat) : (s.indexInvalidate p).memory.devices = s.memory.devices :=
    rfl
@[simp] theorem State.indexInvalidate_drainedDevices (s : State) (p : Nat) : (s.indexInvalidate p).drainedDevices = s.drainedDevices :=
    rfl
@[simp] theorem State.indexInvalidate_busByte (s : State) (p : Nat) (a : Nat) : (s.indexInvalidate p).busByte a = s.busByte a :=
    rfl
@[simp] theorem State.indexInvalidate_reg (s : State) (p : Nat) (r : RegIndex) : (s.indexInvalidate p).reg r = s.reg r :=
    rfl

/-! `State.indexLruBitClear`. -/
@[simp] theorem State.indexLruBitClear_gpr (s : State) (p : Nat) : (s.indexLruBitClear p).gpr = s.gpr := rfl
@[simp] theorem State.indexLruBitClear_pc (s : State) (p : Nat) : (s.indexLruBitClear p).pc = s.pc := rfl
@[simp] theorem State.indexLruBitClear_nextPc (s : State) (p : Nat) : (s.indexLruBitClear p).nextPc = s.nextPc := rfl
@[simp] theorem State.indexLruBitClear_slot (s : State) (p : Nat) : (s.indexLruBitClear p).slot = s.slot := rfl
@[simp] theorem State.indexLruBitClear_hi (s : State) (p : Nat) : (s.indexLruBitClear p).hi = s.hi := rfl
@[simp] theorem State.indexLruBitClear_lo (s : State) (p : Nat) : (s.indexLruBitClear p).lo = s.lo := rfl
@[simp] theorem State.indexLruBitClear_cp0 (s : State) (p : Nat) : (s.indexLruBitClear p).cp0 = s.cp0 := rfl
@[simp] theorem State.indexLruBitClear_hidden (s : State) (p : Nat) : (s.indexLruBitClear p).hidden = s.hidden := rfl
@[simp] theorem State.indexLruBitClear_platform (s : State) (p : Nat) : (s.indexLruBitClear p).platform = s.platform :=
    rfl
@[simp] theorem State.indexLruBitClear_draws (s : State) (p : Nat) : (s.indexLruBitClear p).draws = s.draws := rfl
@[simp] theorem State.indexLruBitClear_bytes (s : State) (p : Nat) : (s.indexLruBitClear p).memory.bytes = s.memory.bytes :=
    rfl
@[simp] theorem State.indexLruBitClear_buffer (s : State) (p : Nat) : (s.indexLruBitClear p).memory.buffer = s.memory.buffer :=
    rfl
@[simp] theorem State.indexLruBitClear_icache (s : State) (p : Nat) : (s.indexLruBitClear p).memory.icache = s.memory.icache :=
    rfl
@[simp] theorem State.indexLruBitClear_stale (s : State) (p : Nat) : (s.indexLruBitClear p).memory.stale = s.memory.stale :=
    rfl
@[simp] theorem State.indexLruBitClear_devices (s : State) (p : Nat) : (s.indexLruBitClear p).memory.devices = s.memory.devices :=
    rfl
@[simp] theorem State.indexLruBitClear_drainedDevices (s : State) (p : Nat) : (s.indexLruBitClear p).drainedDevices = s.drainedDevices :=
    rfl
@[simp] theorem State.indexLruBitClear_busByte (s : State) (p : Nat) (a : Nat) : (s.indexLruBitClear p).busByte a = s.busByte a :=
    rfl
@[simp] theorem State.indexLruBitClear_reg (s : State) (p : Nat) (r : RegIndex) : (s.indexLruBitClear p).reg r = s.reg r :=
    rfl

/-! `State.indexLockBitClear`. -/
@[simp] theorem State.indexLockBitClear_gpr (s : State) (p : Nat) : (s.indexLockBitClear p).gpr = s.gpr := rfl
@[simp] theorem State.indexLockBitClear_pc (s : State) (p : Nat) : (s.indexLockBitClear p).pc = s.pc := rfl
@[simp] theorem State.indexLockBitClear_nextPc (s : State) (p : Nat) : (s.indexLockBitClear p).nextPc = s.nextPc :=
    rfl
@[simp] theorem State.indexLockBitClear_slot (s : State) (p : Nat) : (s.indexLockBitClear p).slot = s.slot := rfl
@[simp] theorem State.indexLockBitClear_hi (s : State) (p : Nat) : (s.indexLockBitClear p).hi = s.hi := rfl
@[simp] theorem State.indexLockBitClear_lo (s : State) (p : Nat) : (s.indexLockBitClear p).lo = s.lo := rfl
@[simp] theorem State.indexLockBitClear_cp0 (s : State) (p : Nat) : (s.indexLockBitClear p).cp0 = s.cp0 := rfl
@[simp] theorem State.indexLockBitClear_hidden (s : State) (p : Nat) : (s.indexLockBitClear p).hidden = s.hidden :=
    rfl
@[simp] theorem State.indexLockBitClear_platform (s : State) (p : Nat) : (s.indexLockBitClear p).platform = s.platform :=
    rfl
@[simp] theorem State.indexLockBitClear_draws (s : State) (p : Nat) : (s.indexLockBitClear p).draws = s.draws := rfl
@[simp] theorem State.indexLockBitClear_bytes (s : State) (p : Nat) : (s.indexLockBitClear p).memory.bytes = s.memory.bytes :=
    rfl
@[simp] theorem State.indexLockBitClear_buffer (s : State) (p : Nat) : (s.indexLockBitClear p).memory.buffer = s.memory.buffer :=
    rfl
@[simp] theorem State.indexLockBitClear_icache (s : State) (p : Nat) : (s.indexLockBitClear p).memory.icache = s.memory.icache :=
    rfl
@[simp] theorem State.indexLockBitClear_stale (s : State) (p : Nat) : (s.indexLockBitClear p).memory.stale = s.memory.stale :=
    rfl
@[simp] theorem State.indexLockBitClear_devices (s : State) (p : Nat) : (s.indexLockBitClear p).memory.devices = s.memory.devices :=
    rfl
@[simp] theorem State.indexLockBitClear_drainedDevices (s : State) (p : Nat) : (s.indexLockBitClear p).drainedDevices = s.drainedDevices :=
    rfl
@[simp] theorem State.indexLockBitClear_busByte (s : State) (p : Nat) (a : Nat) : (s.indexLockBitClear p).busByte a = s.busByte a :=
    rfl
@[simp] theorem State.indexLockBitClear_reg (s : State) (p : Nat) (r : RegIndex) : (s.indexLockBitClear p).reg r = s.reg r :=
    rfl

/-! `State.hitInvalidate`. -/
@[simp] theorem State.hitInvalidate_gpr (s : State) (p : Nat) : (s.hitInvalidate p).gpr = s.gpr := by
  simp only [State.hitInvalidate]; repeat' split <;> try rfl
@[simp] theorem State.hitInvalidate_pc (s : State) (p : Nat) : (s.hitInvalidate p).pc = s.pc := by
  simp only [State.hitInvalidate]; repeat' split <;> try rfl
@[simp] theorem State.hitInvalidate_nextPc (s : State) (p : Nat) : (s.hitInvalidate p).nextPc = s.nextPc := by
  simp only [State.hitInvalidate]; repeat' split <;> try rfl
@[simp] theorem State.hitInvalidate_slot (s : State) (p : Nat) : (s.hitInvalidate p).slot = s.slot := by
  simp only [State.hitInvalidate]; repeat' split <;> try rfl
@[simp] theorem State.hitInvalidate_hi (s : State) (p : Nat) : (s.hitInvalidate p).hi = s.hi := by
  simp only [State.hitInvalidate]; repeat' split <;> try rfl
@[simp] theorem State.hitInvalidate_lo (s : State) (p : Nat) : (s.hitInvalidate p).lo = s.lo := by
  simp only [State.hitInvalidate]; repeat' split <;> try rfl
@[simp] theorem State.hitInvalidate_cp0 (s : State) (p : Nat) : (s.hitInvalidate p).cp0 = s.cp0 := by
  simp only [State.hitInvalidate]; repeat' split <;> try rfl
@[simp] theorem State.hitInvalidate_hidden (s : State) (p : Nat) : (s.hitInvalidate p).hidden = s.hidden := by
  simp only [State.hitInvalidate]; repeat' split <;> try rfl
@[simp] theorem State.hitInvalidate_platform (s : State) (p : Nat) : (s.hitInvalidate p).platform = s.platform := by
  simp only [State.hitInvalidate]; repeat' split <;> try rfl
@[simp] theorem State.hitInvalidate_draws (s : State) (p : Nat) : (s.hitInvalidate p).draws = s.draws := by
  simp only [State.hitInvalidate]; repeat' split <;> try rfl
@[simp] theorem State.hitInvalidate_bytes (s : State) (p : Nat) : (s.hitInvalidate p).memory.bytes = s.memory.bytes := by
  simp only [State.hitInvalidate]; repeat' split <;> try rfl
@[simp] theorem State.hitInvalidate_buffer (s : State) (p : Nat) : (s.hitInvalidate p).memory.buffer = s.memory.buffer := by
  simp only [State.hitInvalidate]; repeat' split <;> try rfl
@[simp] theorem State.hitInvalidate_icache (s : State) (p : Nat) : (s.hitInvalidate p).memory.icache = s.memory.icache := by
  simp only [State.hitInvalidate]; repeat' split <;> try rfl
@[simp] theorem State.hitInvalidate_stale (s : State) (p : Nat) : (s.hitInvalidate p).memory.stale = s.memory.stale := by
  simp only [State.hitInvalidate]; repeat' split <;> try rfl
@[simp] theorem State.hitInvalidate_devices (s : State) (p : Nat) : (s.hitInvalidate p).memory.devices = s.memory.devices := by
  simp only [State.hitInvalidate]; repeat' split <;> try rfl
@[simp] theorem State.hitInvalidate_drainedDevices (s : State) (p : Nat) : (s.hitInvalidate p).drainedDevices = s.drainedDevices := by
  simp only [State.hitInvalidate]; repeat' split <;> try rfl
@[simp] theorem State.hitInvalidate_busByte (s : State) (p : Nat) (a : Nat) : (s.hitInvalidate p).busByte a = s.busByte a := by
  simp only [State.hitInvalidate]; repeat' split <;> try rfl
@[simp] theorem State.hitInvalidate_reg (s : State) (p : Nat) (r : RegIndex) : (s.hitInvalidate p).reg r = s.reg r := by
  simp only [State.hitInvalidate]; repeat' split <;> try rfl

/-! `State.snoop`. -/
@[simp] theorem State.snoop_gpr (s : State) (p : Nat) : (s.snoop p).gpr = s.gpr := by
  simp only [State.snoop]; repeat' split <;> try rfl
@[simp] theorem State.snoop_pc (s : State) (p : Nat) : (s.snoop p).pc = s.pc := by
  simp only [State.snoop]; repeat' split <;> try rfl
@[simp] theorem State.snoop_nextPc (s : State) (p : Nat) : (s.snoop p).nextPc = s.nextPc := by
  simp only [State.snoop]; repeat' split <;> try rfl
@[simp] theorem State.snoop_slot (s : State) (p : Nat) : (s.snoop p).slot = s.slot := by
  simp only [State.snoop]; repeat' split <;> try rfl
@[simp] theorem State.snoop_hi (s : State) (p : Nat) : (s.snoop p).hi = s.hi := by
  simp only [State.snoop]; repeat' split <;> try rfl
@[simp] theorem State.snoop_lo (s : State) (p : Nat) : (s.snoop p).lo = s.lo := by
  simp only [State.snoop]; repeat' split <;> try rfl
@[simp] theorem State.snoop_cp0 (s : State) (p : Nat) : (s.snoop p).cp0 = s.cp0 := by
  simp only [State.snoop]; repeat' split <;> try rfl
@[simp] theorem State.snoop_hidden (s : State) (p : Nat) : (s.snoop p).hidden = s.hidden := by
  simp only [State.snoop]; repeat' split <;> try rfl
@[simp] theorem State.snoop_platform (s : State) (p : Nat) : (s.snoop p).platform = s.platform := by
  simp only [State.snoop]; repeat' split <;> try rfl
@[simp] theorem State.snoop_draws (s : State) (p : Nat) : (s.snoop p).draws = s.draws := by
  simp only [State.snoop]; repeat' split <;> try rfl
@[simp] theorem State.snoop_bytes (s : State) (p : Nat) : (s.snoop p).memory.bytes = s.memory.bytes := by
  simp only [State.snoop]; repeat' split <;> try rfl
@[simp] theorem State.snoop_buffer (s : State) (p : Nat) : (s.snoop p).memory.buffer = s.memory.buffer := by
  simp only [State.snoop]; repeat' split <;> try rfl
@[simp] theorem State.snoop_icache (s : State) (p : Nat) : (s.snoop p).memory.icache = s.memory.icache := by
  simp only [State.snoop]; repeat' split <;> try rfl
@[simp] theorem State.snoop_stale (s : State) (p : Nat) : (s.snoop p).memory.stale = s.memory.stale := by
  simp only [State.snoop]; repeat' split <;> try rfl
@[simp] theorem State.snoop_devices (s : State) (p : Nat) : (s.snoop p).memory.devices = s.memory.devices := by
  simp only [State.snoop]; repeat' split <;> try rfl
@[simp] theorem State.snoop_drainedDevices (s : State) (p : Nat) : (s.snoop p).drainedDevices = s.drainedDevices := by
  simp only [State.snoop]; repeat' split <;> try rfl
@[simp] theorem State.snoop_busByte (s : State) (p : Nat) (a : Nat) : (s.snoop p).busByte a = s.busByte a := by
  simp only [State.snoop]; repeat' split <;> try rfl
@[simp] theorem State.snoop_reg (s : State) (p : Nat) (r : RegIndex) : (s.snoop p).reg r = s.reg r := by
  simp only [State.snoop]; repeat' split <;> try rfl

/-! `State.fillWord`. -/
@[simp] theorem State.fillWord_gpr (s : State) (p : Nat) : (s.fillWord p).gpr = s.gpr := rfl
@[simp] theorem State.fillWord_pc (s : State) (p : Nat) : (s.fillWord p).pc = s.pc := rfl
@[simp] theorem State.fillWord_nextPc (s : State) (p : Nat) : (s.fillWord p).nextPc = s.nextPc := rfl
@[simp] theorem State.fillWord_slot (s : State) (p : Nat) : (s.fillWord p).slot = s.slot := rfl
@[simp] theorem State.fillWord_hi (s : State) (p : Nat) : (s.fillWord p).hi = s.hi := rfl
@[simp] theorem State.fillWord_lo (s : State) (p : Nat) : (s.fillWord p).lo = s.lo := rfl
@[simp] theorem State.fillWord_cp0 (s : State) (p : Nat) : (s.fillWord p).cp0 = s.cp0 := rfl
@[simp] theorem State.fillWord_hidden (s : State) (p : Nat) : (s.fillWord p).hidden = s.hidden := rfl
@[simp] theorem State.fillWord_platform (s : State) (p : Nat) : (s.fillWord p).platform = s.platform := rfl
@[simp] theorem State.fillWord_draws (s : State) (p : Nat) : (s.fillWord p).draws = s.draws := rfl
@[simp] theorem State.fillWord_bytes (s : State) (p : Nat) : (s.fillWord p).memory.bytes = s.memory.bytes := rfl
@[simp] theorem State.fillWord_buffer (s : State) (p : Nat) : (s.fillWord p).memory.buffer = s.memory.buffer := rfl
@[simp] theorem State.fillWord_icache (s : State) (p : Nat) : (s.fillWord p).memory.icache = s.memory.icache := rfl
@[simp] theorem State.fillWord_stale (s : State) (p : Nat) : (s.fillWord p).memory.stale = s.memory.stale := rfl
@[simp] theorem State.fillWord_devices (s : State) (p : Nat) : (s.fillWord p).memory.devices = s.memory.devices := rfl
@[simp] theorem State.fillWord_drainedDevices (s : State) (p : Nat) : (s.fillWord p).drainedDevices = s.drainedDevices :=
    rfl
@[simp] theorem State.fillWord_busByte (s : State) (p : Nat) (a : Nat) : (s.fillWord p).busByte a = s.busByte a := rfl
@[simp] theorem State.fillWord_reg (s : State) (p : Nat) (r : RegIndex) : (s.fillWord p).reg r = s.reg r := rfl

/-! `State.storeHit`. -/
@[simp] theorem State.storeHit_gpr (s : State) (p : Nat) (w : Bool) (lanes : List LaneByte) : (s.storeHit p w lanes).gpr = s.gpr :=
    rfl
@[simp] theorem State.storeHit_pc (s : State) (p : Nat) (w : Bool) (lanes : List LaneByte) : (s.storeHit p w lanes).pc = s.pc :=
    rfl
@[simp] theorem State.storeHit_nextPc (s : State) (p : Nat) (w : Bool) (lanes : List LaneByte) : (s.storeHit p w lanes).nextPc = s.nextPc :=
    rfl
@[simp] theorem State.storeHit_slot (s : State) (p : Nat) (w : Bool) (lanes : List LaneByte) : (s.storeHit p w lanes).slot = s.slot :=
    rfl
@[simp] theorem State.storeHit_hi (s : State) (p : Nat) (w : Bool) (lanes : List LaneByte) : (s.storeHit p w lanes).hi = s.hi :=
    rfl
@[simp] theorem State.storeHit_lo (s : State) (p : Nat) (w : Bool) (lanes : List LaneByte) : (s.storeHit p w lanes).lo = s.lo :=
    rfl
@[simp] theorem State.storeHit_cp0 (s : State) (p : Nat) (w : Bool) (lanes : List LaneByte) : (s.storeHit p w lanes).cp0 = s.cp0 :=
    rfl
@[simp] theorem State.storeHit_hidden (s : State) (p : Nat) (w : Bool) (lanes : List LaneByte) : (s.storeHit p w lanes).hidden = s.hidden :=
    rfl
@[simp] theorem State.storeHit_platform (s : State) (p : Nat) (w : Bool) (lanes : List LaneByte) : (s.storeHit p w lanes).platform = s.platform :=
    rfl
@[simp] theorem State.storeHit_draws (s : State) (p : Nat) (w : Bool) (lanes : List LaneByte) : (s.storeHit p w lanes).draws = s.draws :=
    rfl
@[simp] theorem State.storeHit_bytes (s : State) (p : Nat) (w : Bool) (lanes : List LaneByte) : (s.storeHit p w lanes).memory.bytes = s.memory.bytes :=
    rfl
@[simp] theorem State.storeHit_buffer (s : State) (p : Nat) (w : Bool) (lanes : List LaneByte) : (s.storeHit p w lanes).memory.buffer = s.memory.buffer :=
    rfl
@[simp] theorem State.storeHit_icache (s : State) (p : Nat) (w : Bool) (lanes : List LaneByte) : (s.storeHit p w lanes).memory.icache = s.memory.icache :=
    rfl
@[simp] theorem State.storeHit_stale (s : State) (p : Nat) (w : Bool) (lanes : List LaneByte) : (s.storeHit p w lanes).memory.stale = s.memory.stale :=
    rfl
@[simp] theorem State.storeHit_devices (s : State) (p : Nat) (w : Bool) (lanes : List LaneByte) : (s.storeHit p w lanes).memory.devices = s.memory.devices :=
    rfl
@[simp] theorem State.storeHit_drainedDevices (s : State) (p : Nat) (w : Bool) (lanes : List LaneByte) : (s.storeHit p w lanes).drainedDevices = s.drainedDevices :=
    rfl
@[simp] theorem State.storeHit_busByte (s : State) (p : Nat) (w : Bool) (lanes : List LaneByte) (a : Nat) : (s.storeHit p w lanes).busByte a = s.busByte a :=
    rfl
@[simp] theorem State.storeHit_reg (s : State) (p : Nat) (w : Bool) (lanes : List LaneByte) (r : RegIndex) : (s.storeHit p w lanes).reg r = s.reg r :=
    rfl

/-! `State.fillLine`. -/
@[simp] theorem State.fillLine_gpr (s : State) (line : Nat) : (s.fillLine line).gpr = s.gpr := rfl
@[simp] theorem State.fillLine_pc (s : State) (line : Nat) : (s.fillLine line).pc = s.pc := rfl
@[simp] theorem State.fillLine_nextPc (s : State) (line : Nat) : (s.fillLine line).nextPc = s.nextPc := rfl
@[simp] theorem State.fillLine_slot (s : State) (line : Nat) : (s.fillLine line).slot = s.slot := rfl
@[simp] theorem State.fillLine_hi (s : State) (line : Nat) : (s.fillLine line).hi = s.hi := rfl
@[simp] theorem State.fillLine_lo (s : State) (line : Nat) : (s.fillLine line).lo = s.lo := rfl
@[simp] theorem State.fillLine_cp0 (s : State) (line : Nat) : (s.fillLine line).cp0 = s.cp0 := rfl
@[simp] theorem State.fillLine_hidden (s : State) (line : Nat) : (s.fillLine line).hidden = s.hidden := rfl
@[simp] theorem State.fillLine_platform (s : State) (line : Nat) : (s.fillLine line).platform = s.platform := rfl
@[simp] theorem State.fillLine_draws (s : State) (line : Nat) : (s.fillLine line).draws = s.draws := rfl
@[simp] theorem State.fillLine_bytes (s : State) (line : Nat) : (s.fillLine line).memory.bytes = s.memory.bytes := rfl
@[simp] theorem State.fillLine_buffer (s : State) (line : Nat) : (s.fillLine line).memory.buffer = s.memory.buffer :=
    rfl
@[simp] theorem State.fillLine_dcache (s : State) (line : Nat) : (s.fillLine line).memory.dcache = s.memory.dcache :=
    rfl
@[simp] theorem State.fillLine_lru (s : State) (line : Nat) : (s.fillLine line).memory.lru = s.memory.lru := rfl
@[simp] theorem State.fillLine_stale (s : State) (line : Nat) : (s.fillLine line).memory.stale = s.memory.stale := rfl
@[simp] theorem State.fillLine_devices (s : State) (line : Nat) : (s.fillLine line).memory.devices = s.memory.devices :=
    rfl
@[simp] theorem State.fillLine_drainedDevices (s : State) (line : Nat) : (s.fillLine line).drainedDevices = s.drainedDevices :=
    rfl
@[simp] theorem State.fillLine_busByte (s : State) (line : Nat) (a : Nat) : (s.fillLine line).busByte a = s.busByte a :=
    rfl
@[simp] theorem State.fillLine_reg (s : State) (line : Nat) (r : RegIndex) : (s.fillLine line).reg r = s.reg r := rfl

/-! `State.popLate`. -/
@[simp] theorem State.popLate_gpr (s : State) : (s.popLate).gpr = s.gpr := rfl
@[simp] theorem State.popLate_pc (s : State) : (s.popLate).pc = s.pc := rfl
@[simp] theorem State.popLate_nextPc (s : State) : (s.popLate).nextPc = s.nextPc := rfl
@[simp] theorem State.popLate_slot (s : State) : (s.popLate).slot = s.slot := rfl
@[simp] theorem State.popLate_hi (s : State) : (s.popLate).hi = s.hi := rfl
@[simp] theorem State.popLate_lo (s : State) : (s.popLate).lo = s.lo := rfl
@[simp] theorem State.popLate_cp0 (s : State) : (s.popLate).cp0 = s.cp0 := rfl
@[simp] theorem State.popLate_platform (s : State) : (s.popLate).platform = s.platform := rfl
@[simp] theorem State.popLate_draws (s : State) : (s.popLate).draws = s.draws := rfl
@[simp] theorem State.popLate_bytes (s : State) : (s.popLate).memory.bytes = s.memory.bytes := rfl
@[simp] theorem State.popLate_buffer (s : State) : (s.popLate).memory.buffer = s.memory.buffer := rfl
@[simp] theorem State.popLate_dcache (s : State) : (s.popLate).memory.dcache = s.memory.dcache := rfl
@[simp] theorem State.popLate_lru (s : State) : (s.popLate).memory.lru = s.memory.lru := rfl
@[simp] theorem State.popLate_icache (s : State) : (s.popLate).memory.icache = s.memory.icache := rfl
@[simp] theorem State.popLate_stale (s : State) : (s.popLate).memory.stale = s.memory.stale := rfl
@[simp] theorem State.popLate_devices (s : State) : (s.popLate).memory.devices = s.memory.devices := rfl
@[simp] theorem State.popLate_drainedDevices (s : State) : (s.popLate).drainedDevices = s.drainedDevices := rfl
@[simp] theorem State.popLate_busByte (s : State) (a : Nat) : (s.popLate).busByte a = s.busByte a := rfl
@[simp] theorem State.popLate_reg (s : State) (r : RegIndex) : (s.popLate).reg r = s.reg r := rfl

/-! `State.wake`. -/
@[simp] theorem State.wake_gpr (s : State) : (s.wake).gpr = s.gpr := rfl
@[simp] theorem State.wake_pc (s : State) : (s.wake).pc = s.pc := rfl
@[simp] theorem State.wake_nextPc (s : State) : (s.wake).nextPc = s.nextPc := rfl
@[simp] theorem State.wake_slot (s : State) : (s.wake).slot = s.slot := rfl
@[simp] theorem State.wake_hi (s : State) : (s.wake).hi = s.hi := rfl
@[simp] theorem State.wake_lo (s : State) : (s.wake).lo = s.lo := rfl
@[simp] theorem State.wake_hidden (s : State) : (s.wake).hidden = s.hidden := rfl
@[simp] theorem State.wake_platform (s : State) : (s.wake).platform = s.platform := rfl
@[simp] theorem State.wake_draws (s : State) : (s.wake).draws = s.draws := rfl
@[simp] theorem State.wake_bytes (s : State) : (s.wake).memory.bytes = s.memory.bytes := rfl
@[simp] theorem State.wake_buffer (s : State) : (s.wake).memory.buffer = s.memory.buffer := rfl
@[simp] theorem State.wake_dcache (s : State) : (s.wake).memory.dcache = s.memory.dcache := rfl
@[simp] theorem State.wake_lru (s : State) : (s.wake).memory.lru = s.memory.lru := rfl
@[simp] theorem State.wake_icache (s : State) : (s.wake).memory.icache = s.memory.icache := rfl
@[simp] theorem State.wake_stale (s : State) : (s.wake).memory.stale = s.memory.stale := rfl
@[simp] theorem State.wake_devices (s : State) : (s.wake).memory.devices = s.memory.devices := rfl
@[simp] theorem State.wake_drainedDevices (s : State) : (s.wake).drainedDevices = s.drainedDevices := rfl
@[simp] theorem State.wake_busByte (s : State) (a : Nat) : (s.wake).busByte a = s.busByte a := rfl
@[simp] theorem State.wake_reg (s : State) (r : RegIndex) : (s.wake).reg r = s.reg r := rfl

/-! `State.tailSchedule`. -/
@[simp] theorem State.tailSchedule_gpr (s : State) : (s.tailSchedule).gpr = s.gpr := rfl
@[simp] theorem State.tailSchedule_pc (s : State) : (s.tailSchedule).pc = s.pc := rfl
@[simp] theorem State.tailSchedule_nextPc (s : State) : (s.tailSchedule).nextPc = s.nextPc := rfl
@[simp] theorem State.tailSchedule_slot (s : State) : (s.tailSchedule).slot = s.slot := rfl
@[simp] theorem State.tailSchedule_hi (s : State) : (s.tailSchedule).hi = s.hi := rfl
@[simp] theorem State.tailSchedule_lo (s : State) : (s.tailSchedule).lo = s.lo := rfl
@[simp] theorem State.tailSchedule_cp0 (s : State) : (s.tailSchedule).cp0 = s.cp0 := rfl
@[simp] theorem State.tailSchedule_hidden (s : State) : (s.tailSchedule).hidden = s.hidden := rfl
@[simp] theorem State.tailSchedule_draws (s : State) : (s.tailSchedule).draws = s.draws := rfl
@[simp] theorem State.tailSchedule_bytes (s : State) : (s.tailSchedule).memory.bytes = s.memory.bytes := rfl
@[simp] theorem State.tailSchedule_buffer (s : State) : (s.tailSchedule).memory.buffer = s.memory.buffer := rfl
@[simp] theorem State.tailSchedule_dcache (s : State) : (s.tailSchedule).memory.dcache = s.memory.dcache := rfl
@[simp] theorem State.tailSchedule_lru (s : State) : (s.tailSchedule).memory.lru = s.memory.lru := rfl
@[simp] theorem State.tailSchedule_icache (s : State) : (s.tailSchedule).memory.icache = s.memory.icache := rfl
@[simp] theorem State.tailSchedule_stale (s : State) : (s.tailSchedule).memory.stale = s.memory.stale := rfl
@[simp] theorem State.tailSchedule_devices (s : State) : (s.tailSchedule).memory.devices = s.memory.devices := rfl
@[simp] theorem State.tailSchedule_reg (s : State) (r : RegIndex) : (s.tailSchedule).reg r = s.reg r := rfl

/-! `State.updateCop`. -/
@[simp] theorem State.updateCop_gpr (s : State) (z : BitVec 2) (f : Coprocessor → Coprocessor) : (s.updateCop z f).gpr = s.gpr := by
  simp only [State.updateCop]; repeat' split <;> try rfl
@[simp] theorem State.updateCop_pc (s : State) (z : BitVec 2) (f : Coprocessor → Coprocessor) : (s.updateCop z f).pc = s.pc := by
  simp only [State.updateCop]; repeat' split <;> try rfl
@[simp] theorem State.updateCop_nextPc (s : State) (z : BitVec 2) (f : Coprocessor → Coprocessor) : (s.updateCop z f).nextPc = s.nextPc := by
  simp only [State.updateCop]; repeat' split <;> try rfl
@[simp] theorem State.updateCop_slot (s : State) (z : BitVec 2) (f : Coprocessor → Coprocessor) : (s.updateCop z f).slot = s.slot := by
  simp only [State.updateCop]; repeat' split <;> try rfl
@[simp] theorem State.updateCop_hi (s : State) (z : BitVec 2) (f : Coprocessor → Coprocessor) : (s.updateCop z f).hi = s.hi := by
  simp only [State.updateCop]; repeat' split <;> try rfl
@[simp] theorem State.updateCop_lo (s : State) (z : BitVec 2) (f : Coprocessor → Coprocessor) : (s.updateCop z f).lo = s.lo := by
  simp only [State.updateCop]; repeat' split <;> try rfl
@[simp] theorem State.updateCop_cp0 (s : State) (z : BitVec 2) (f : Coprocessor → Coprocessor) : (s.updateCop z f).cp0 = s.cp0 := by
  simp only [State.updateCop]; repeat' split <;> try rfl
@[simp] theorem State.updateCop_hidden (s : State) (z : BitVec 2) (f : Coprocessor → Coprocessor) : (s.updateCop z f).hidden = s.hidden := by
  simp only [State.updateCop]; repeat' split <;> try rfl
@[simp] theorem State.updateCop_draws (s : State) (z : BitVec 2) (f : Coprocessor → Coprocessor) : (s.updateCop z f).draws = s.draws := by
  simp only [State.updateCop]; repeat' split <;> try rfl
@[simp] theorem State.updateCop_bytes (s : State) (z : BitVec 2) (f : Coprocessor → Coprocessor) : (s.updateCop z f).memory.bytes = s.memory.bytes := by
  simp only [State.updateCop]; repeat' split <;> try rfl
@[simp] theorem State.updateCop_buffer (s : State) (z : BitVec 2) (f : Coprocessor → Coprocessor) : (s.updateCop z f).memory.buffer = s.memory.buffer := by
  simp only [State.updateCop]; repeat' split <;> try rfl
@[simp] theorem State.updateCop_dcache (s : State) (z : BitVec 2) (f : Coprocessor → Coprocessor) : (s.updateCop z f).memory.dcache = s.memory.dcache := by
  simp only [State.updateCop]; repeat' split <;> try rfl
@[simp] theorem State.updateCop_lru (s : State) (z : BitVec 2) (f : Coprocessor → Coprocessor) : (s.updateCop z f).memory.lru = s.memory.lru := by
  simp only [State.updateCop]; repeat' split <;> try rfl
@[simp] theorem State.updateCop_icache (s : State) (z : BitVec 2) (f : Coprocessor → Coprocessor) : (s.updateCop z f).memory.icache = s.memory.icache := by
  simp only [State.updateCop]; repeat' split <;> try rfl
@[simp] theorem State.updateCop_stale (s : State) (z : BitVec 2) (f : Coprocessor → Coprocessor) : (s.updateCop z f).memory.stale = s.memory.stale := by
  simp only [State.updateCop]; repeat' split <;> try rfl
@[simp] theorem State.updateCop_devices (s : State) (z : BitVec 2) (f : Coprocessor → Coprocessor) : (s.updateCop z f).memory.devices = s.memory.devices := by
  simp only [State.updateCop]; repeat' split <;> try rfl
@[simp] theorem State.updateCop_reg (s : State) (z : BitVec 2) (f : Coprocessor → Coprocessor) (r : RegIndex) : (s.updateCop z f).reg r = s.reg r := by
  simp only [State.updateCop]; repeat' split <;> try rfl

/-! What the operations write. -/

@[simp] theorem State.reg_zero (s : State) : s.reg 0#5 = 0#32 := rfl

@[simp] theorem State.writeReg_zero (s : State) (v : Word) : s.writeReg 0#5 v = s := rfl

theorem State.writeReg_reg_same (s : State) (i : RegIndex) (v : Word) :
    (s.writeReg i v).reg i = if i = 0#5 then 0#32 else v := by
  unfold State.reg State.writeReg; split <;> simp

theorem State.writeReg_reg_other (s : State) (i j : RegIndex) (v : Word) (h : j ≠ i) :
    (s.writeReg i v).reg j = s.reg j := by
  have : i.toNat ≠ j.toNat := fun e => h (BitVec.eq_of_toNat_eq e.symm)
  unfold State.reg State.writeReg; split
  · rfl
  · split <;> simp [this]

/-- A register write is the write of that register alone. -/
theorem State.writeReg_only (s : State) (i : RegIndex) (v : Word) : OnlyRegister s (s.writeReg i v) i v :=
  ⟨s.writeReg_reg_same i v, fun j h => s.writeReg_reg_other i j v h⟩

@[simp] theorem State.writeHiLo_hi (s : State) (t : BitVec 64) : (s.writeHiLo t).hi = t.extractLsb' 32 32 := rfl
@[simp] theorem State.writeHiLo_lo (s : State) (t : BitVec 64) : (s.writeHiLo t).lo = t.extractLsb' 0 32 := rfl
@[simp] theorem State.writeProduct_hi (s : State) (rd : RegIndex) (t : BitVec 64) :
    (s.writeProduct rd t).hi = t.extractLsb' 32 32 := by simp [State.writeProduct]
@[simp] theorem State.writeProduct_lo (s : State) (rd : RegIndex) (t : BitVec 64) :
    (s.writeProduct rd t).lo = t.extractLsb' 0 32 := by simp [State.writeProduct]

@[simp] theorem State.advance_pc (s : State) (ice : Bool) (next : Word) (slot : Slot) :
    (s.advance ice next slot).pc = s.nextPc := rfl
@[simp] theorem State.advance_nextPc (s : State) (ice : Bool) (next : Word) (slot : Slot) :
    (s.advance ice next slot).nextPc = next := rfl
@[simp] theorem State.advance_slot (s : State) (ice : Bool) (next : Word) (slot : Slot) :
    (s.advance ice next slot).slot = slot := rfl
@[simp] theorem State.advance_cp0 (s : State) (ice : Bool) (next : Word) (slot : Slot) :
    (s.advance ice next slot).cp0 = s.settledCp0 := rfl
@[simp] theorem State.advance_hidden (s : State) (ice : Bool) (next : Word) (slot : Slot) :
    (s.advance ice next slot).hidden = s.completedHidden ice slot := rfl

@[simp] theorem State.retire_pc (s : State) : s.retire.pc = s.nextPc := rfl
@[simp] theorem State.retire_nextPc (s : State) : s.retire.nextPc = s.nextPc + 4#32 := rfl
@[simp] theorem State.retire_slot (s : State) : s.retire.slot = .none := rfl
@[simp] theorem State.retire_cp0 (s : State) : s.retire.cp0 = s.settledCp0 := rfl
@[simp] theorem State.jump_pc (s : State) (target : Word) : (s.jump target).pc = s.nextPc := rfl
@[simp] theorem State.jump_nextPc (s : State) (target : Word) : (s.jump target).nextPc = target := rfl
@[simp] theorem State.jump_slot (s : State) (target : Word) : (s.jump target).slot = .branch s.pc true := rfl
@[simp] theorem State.jump_cp0 (s : State) (target : Word) : (s.jump target).cp0 = s.settledCp0 := rfl
@[simp] theorem State.fallThrough_pc (s : State) : s.fallThrough.pc = s.nextPc := rfl
@[simp] theorem State.fallThrough_nextPc (s : State) : s.fallThrough.nextPc = s.nextPc + 4#32 := rfl
@[simp] theorem State.fallThrough_slot (s : State) : s.fallThrough.slot = .branch s.pc false := rfl
@[simp] theorem State.fallThrough_cp0 (s : State) : s.fallThrough.cp0 = s.settledCp0 := rfl
@[simp] theorem State.nullify_pc (s : State) : s.nullify.pc = s.pc + 8#32 := rfl
@[simp] theorem State.nullify_nextPc (s : State) : s.nullify.nextPc = s.pc + 12#32 := rfl
@[simp] theorem State.nullify_slot (s : State) : s.nullify.slot = .none := rfl
@[simp] theorem State.nullify_cp0 (s : State) : s.nullify.cp0 = s.settledCp0 := rfl

@[simp] theorem State.record_cp0 (s : State) (e : Exception) : (s.record e).cp0 = s.recordedCp0 e := rfl
@[simp] theorem State.goVector_pc (s : State) (v : Word) (b : Bool) : (s.goVector v b).pc = v := rfl
@[simp] theorem State.goVector_nextPc (s : State) (v : Word) (b : Bool) : (s.goVector v b).nextPc = v + 4#32 := rfl
@[simp] theorem State.goVector_slot (s : State) (v : Word) (b : Bool) : (s.goVector v b).slot = .none := rfl
@[simp] theorem State.exceptionEntry_cp0 (s : State) (e : Exception) : (s.exceptionEntry e).cp0 = s.recordedCp0 e :=
  rfl
@[simp] theorem State.exceptionEntry_pc (s : State) (e : Exception) :
    (s.exceptionEntry e).pc = commonVector s.cp0.bev := rfl
@[simp] theorem State.exceptionEntry_nextPc (s : State) (e : Exception) :
    (s.exceptionEntry e).nextPc = commonVector s.cp0.bev + 4#32 := rfl
@[simp] theorem State.exceptionEntry_slot (s : State) (e : Exception) : (s.exceptionEntry e).slot = .none := rfl
@[simp] theorem State.boundaryEntry_cp0 (s : State) (e : Exception) : (s.boundaryEntry e).cp0 = s.recordedCp0 e :=
  rfl

@[simp] theorem State.drain_buffer (s : State) : s.drain.memory.buffer = [] := rfl
@[simp] theorem State.drain_bytes (s : State) : s.drain.memory.bytes = s.drainedBytes := rfl
@[simp] theorem State.drain_devices (s : State) : s.drain.memory.devices = s.drainedDevices := rfl
@[simp] theorem State.writeSet_lru (s : State) (i : Nat) (c : CacheSet) :
    (s.writeSet i c).memory.lru = withBit s.memory.lru i c.lru := rfl
@[simp] theorem State.writeSet_dcache (s : State) (i : Nat) (c : CacheSet) :
    (s.writeSet i c).memory.dcache = Sparse.write Ways.empty s.memory.dcache i { way0 := c.way0, way1 := c.way1 } := rfl
@[simp] theorem State.pushWrite_buffer (s : State) (cells : List Host.Cell) :
    (s.pushWrite cells).memory.buffer = s.memory.buffer ++ [cells] := rfl

end Sys2Proof.Machine
end

