-- ==== Sys2Proof/Laws/Memory.lean ====
section
/-! SUPPORT. The laws of memory and of the data cache: a read after a write, the canonical form kept by every
operation, and what a data read and a data write can do. -/

namespace Sys2Proof.Machine

/-! Main memory. -/

theorem Memory.read_write {m : List Host.Cell} (h : Memory.wf m = true) (a b : Nat) (v : Byte) :
    Memory.read (Memory.write m a v) b = if b = a then v else Memory.read m b := Sparse.read_write h a b v

theorem Memory.write_wf {m : List Host.Cell} (h : Memory.wf m = true) (a : Nat) (v : Byte) :
    Memory.wf (Memory.write m a v) = true := Sparse.write_wf h a v

theorem Platform.writeByte_wf {m : List Host.Cell} (h : Memory.wf m = true) (p : Platform) (c : Host.Cell) :
    Memory.wf (p.writeByte m c) = true := by
  unfold Platform.writeByte; split
  · exact Memory.write_wf h _ _
  · exact h

theorem Platform.read_writeByte {m : List Host.Cell} (h : Memory.wf m = true) (p : Platform) (c : Host.Cell) (b : Nat) :
    Memory.read (p.writeByte m c) b = if b = c.1 ∧ p.isRam b = true then c.2 else Memory.read m b := by
  unfold Platform.writeByte
  by_cases hb : b = c.1
  · subst hb; by_cases hr : p.isRam c.1 = true <;> simp [hr, Memory.read_write h]
  · by_cases hr : p.isRam c.1 = true <;> simp [hr, hb, Memory.read_write h]

theorem Platform.busWrite_wf {m : List Host.Cell} (h : Memory.wf m = true) (p : Platform) (cells : List Host.Cell) :
    Memory.wf (p.busWrite m cells) = true := by
  unfold Platform.busWrite
  induction cells generalizing m with
  | nil => exact h
  | cons c rest ih => exact ih (p.writeByte_wf h c)

/-- A bus write leaves every byte that is not one of its own. -/
theorem Platform.read_busWrite_other {m : List Host.Cell} (h : Memory.wf m = true) (p : Platform)
    (cells : List Host.Cell) (b : Nat) (hb : ∀ c ∈ cells, c.1 ≠ b) :
    Memory.read (p.busWrite m cells) b = Memory.read m b := by
  unfold Platform.busWrite
  induction cells generalizing m with
  | nil => rfl
  | cons c rest ih =>
    simp only [List.foldl_cons]
    rw [ih (p.writeByte_wf h c) fun c' hc' => hb c' (by simp [hc']), p.read_writeByte h]
    have := hb c (by simp)
    simp [Ne.symm this]

/-- A bus write of bytes at different addresses stores each of them that RAM takes. -/
theorem Platform.read_busWrite_mem {m : List Host.Cell} (h : Memory.wf m = true) (p : Platform)
    (cells : List Host.Cell) (c : Host.Cell) (hd : (cells.map Prod.fst).Nodup) (hc : c ∈ cells) :
    Memory.read (p.busWrite m cells) c.1 = if p.isRam c.1 = true then c.2 else Memory.read m c.1 := by
  unfold Platform.busWrite
  induction cells generalizing m with
  | nil => simp at hc
  | cons x rest ih =>
    simp only [List.map_cons, List.nodup_cons] at hd
    simp only [List.foldl_cons]
    rcases List.mem_cons.1 hc with rfl | hc
    · have : ∀ y ∈ rest, y.1 ≠ c.1 := fun y hy e => hd.1 (by rw [← e]; exact List.mem_map_of_mem hy)
      have e := Platform.read_busWrite_other (p.writeByte_wf h c) p rest c.1 this
      unfold Platform.busWrite at e
      rw [e, p.read_writeByte h]
      simp
    · have hne : c.1 ≠ x.1 := fun e => hd.1 (by rw [← e]; exact List.mem_map_of_mem hc)
      rw [ih (p.writeByte_wf h x) hd.2 hc, p.read_writeByte h]
      simp [hne]

theorem Platform.busWrites_wf {m : List Host.Cell} (h : Memory.wf m = true) (p : Platform)
    (writes : List (List Host.Cell)) : Memory.wf (writes.foldl p.busWrite m) = true := by
  induction writes generalizing m with
  | nil => exact h
  | cons w rest ih => exact ih (p.busWrite_wf h w)

/-- Writes leave two memories alike at a byte where they are alike. -/
theorem Platform.read_busWrites_congr {m n : List Host.Cell} (hm : Memory.wf m = true) (hn : Memory.wf n = true)
    (p : Platform) (writes : List (List Host.Cell)) (b : Nat) (h : Memory.read m b = Memory.read n b) :
    Memory.read (writes.foldl p.busWrite m) b = Memory.read (writes.foldl p.busWrite n) b := by
  have one : ∀ (cells : List Host.Cell) {m n : List Host.Cell}, Memory.wf m = true → Memory.wf n = true →
      Memory.read m b = Memory.read n b → Memory.read (p.busWrite m cells) b = Memory.read (p.busWrite n cells) b := by
    intro cells
    unfold Platform.busWrite
    induction cells with
    | nil => exact fun _ _ e => e
    | cons c rest ih =>
      intro m n hm hn e
      exact ih (p.writeByte_wf hm c) (p.writeByte_wf hn c) (by rw [p.read_writeByte hm, p.read_writeByte hn, e])
  induction writes generalizing m n with
  | nil => exact h
  | cons w rest ih => exact ih (p.busWrite_wf hm w) (p.busWrite_wf hn w) (one w hm hn h)

/-- The memory with the buffered writes done is in canonical form. -/
theorem State.drainedBytes_wf {s : State} (h : Memory.wf s.memory.bytes = true) : Memory.wf s.drainedBytes = true :=
  s.platform.busWrites_wf h _

theorem State.drain_wf {s : State} (h : Memory.wf s.memory.bytes = true) : Memory.wf s.drain.memory.bytes = true :=
  State.drainedBytes_wf h

theorem State.drainOldest_wf {s : State} (h : Memory.wf s.memory.bytes = true) :
    Memory.wf s.drainOldest.memory.bytes = true := by
  unfold State.drainOldest; split
  · exact h
  · exact s.platform.busWrite_wf h _

/-- The core sees its buffered writes already, so their reaching the bus changes nothing for it, nor for a device. -/
theorem State.drainOldest_busByte (s : State) (a : Nat) : s.drainOldest.busByte a = s.busByte a := by
  unfold State.busByte State.drainedBytes State.drainOldest
  split <;> simp [*]

theorem State.drainOldest_drainedDevices (s : State) : s.drainOldest.drainedDevices = s.drainedDevices := by
  unfold State.drainedDevices State.drainOldest
  split <;> simp [*]

theorem State.reset_memory_wf : Memory.wf State.reset.memory.bytes = true := rfl

/-- A write that enters the buffer is read at once by the core's own bus reads. -/
theorem State.pushWrite_drainedBytes (s : State) (cells : List Host.Cell) :
    (s.pushWrite cells).drainedBytes = s.platform.busWrite s.drainedBytes cells := by
  simp [State.drainedBytes, State.pushWrite, List.foldl_append]

theorem State.pushWrite_busByte_other {s : State} (h : Memory.wf s.memory.bytes = true) (cells : List Host.Cell) (a : Nat)
    (ha : ∀ c ∈ cells, c.1 ≠ a) : (s.pushWrite cells).busByte a = s.busByte a := by
  unfold State.busByte
  rw [State.pushWrite_drainedBytes]
  exact Platform.read_busWrite_other (State.drainedBytes_wf h) _ _ _ ha

theorem State.pushWrite_busByte_mem {s : State} (h : Memory.wf s.memory.bytes = true) (cells : List Host.Cell)
    (c : Host.Cell) (hd : (cells.map Prod.fst).Nodup) (hc : c ∈ cells) :
    (s.pushWrite cells).busByte c.1 = if s.platform.isRam c.1 = true then c.2 else s.busByte c.1 := by
  unfold State.busByte
  rw [State.pushWrite_drainedBytes]
  exact Platform.read_busWrite_mem (State.drainedBytes_wf h) _ _ _ hd hc

/-! The data cache. -/

theorem State.setIndex_lt (s : State) (a : Nat) : s.setIndex a < 1024 := by
  have h : s.setBits ≤ 10 := by unfold State.setBits; have := s.platform.product.dcs.isLt; omega
  have h2 : 2 ^ s.setBits ≤ 2 ^ 10 := Nat.pow_le_pow_right (by decide) h
  have := Nat.mod_lt (a / 4) (Nat.two_pow_pos s.setBits)
  unfold State.setIndex
  omega

/-- Reading a set after one was written. -/
theorem State.readSet_writeSet {s : State} (h : Sparse.wf Ways.empty s.memory.dcache = true) {i : Nat} (hi : i < 1024)
    (j : Nat) (c : CacheSet) : (s.writeSet i c).readSet j = if j = i then c else s.readSet j := by
  unfold State.readSet
  simp only [State.writeSet_dcache, State.writeSet_lru, Sparse.read_write h, withBit_getLsbD _ _ _ _ hi]
  split <;> rfl

theorem State.writeSet_wf {s : State} (h : Sparse.wf Ways.empty s.memory.dcache = true) (i : Nat) (c : CacheSet) :
    Sparse.wf Ways.empty (s.writeSet i c).memory.dcache = true := Sparse.write_wf h i _

/-- The sets of a state with the same data cache. -/
theorem SameDataCache.readSet {s t : State} (h : SameDataCache s t) (i : Nat) : t.readSet i = s.readSet i := by
  unfold State.readSet; rw [h.1, h.2]

@[simp] theorem CacheSet.way_setWay_same (c : CacheSet) (w : Bool) (l : Line) : (c.setWay w l).way w = l := by
  cases w <;> rfl

@[simp] theorem CacheSet.way_setWay_other (c : CacheSet) (w : Bool) (l : Line) : (c.setWay w l).way (!w) = c.way (!w) := by
  cases w <;> rfl

@[simp] theorem CacheSet.setWay_way (c : CacheSet) (w : Bool) : c.setWay w (c.way w) = c := by cases w <;> rfl

@[simp] theorem CacheSet.way_setLru (c : CacheSet) (w b : Bool) : CacheSet.way { c with lru := b } w = c.way w := by
  cases w <;> rfl

/-- The way that is hit is valid and has the tag. -/
theorem CacheSet.hit_some {c : CacheSet} {tag : Nat} {w : Bool} (h : c.hit tag = some w) :
    (c.way w).valid = true ∧ (c.way w).tag = tag := by
  unfold CacheSet.hit at h
  split at h
  · rename_i h0; cases h; simpa [CacheSet.way] using h0
  · split at h
    · rename_i h1; cases h; simpa [CacheSet.way] using h1
    · cases h

/-- The data cache is in canonical form and no set holds two locked lines. -/
structure State.CacheOk (s : State) : Prop where
  wf : Sparse.wf Ways.empty s.memory.dcache = true
  oneLock : ∀ i, (s.readSet i).oneLock = true

theorem State.CacheOk.writeSet {s : State} (h : s.CacheOk) {i : Nat} (hi : i < 1024) (c : CacheSet)
    (hc : c.oneLock = true) : (s.writeSet i c).CacheOk :=
  ⟨State.writeSet_wf h.wf i c, fun j => by rw [State.readSet_writeSet h.wf hi]; split <;> simp [hc, h.oneLock]⟩

/-- The cache of a state with the same cache. -/
theorem State.CacheOk.of_same {s t : State} (h : s.CacheOk) (e : SameDataCache s t) : t.CacheOk :=
  ⟨by rw [e.1]; exact h.wf, fun i => by rw [e.readSet]; exact h.oneLock i⟩

/-- Noting an access keeps at most one lock. -/
theorem State.touched_oneLock (s : State) (c : CacheSet) (w autoLock : Bool) (h : c.oneLock = true) :
    (s.touched c w autoLock).oneLock = true := by
  obtain ⟨⟨v0, l0, t0, d0⟩, ⟨v1, l1, t1, d1⟩, r⟩ := c
  revert h
  cases w <;> cases l0 <;> cases l1 <;> cases autoLock <;>
    simp [State.touched, CacheSet.oneLock, CacheSet.way, CacheSet.setWay]

/-- A line whose lock bit is not raised keeps at most one lock. -/
theorem CacheSet.setWay_oneLock (c : CacheSet) (w : Bool) (l : Line) (h : c.oneLock = true)
    (hl : l.lock = true → (c.way w).lock = true) : (c.setWay w l).oneLock = true := by
  obtain ⟨⟨v0, l0, t0, d0⟩, ⟨v1, l1, t1, d1⟩, r⟩ := c
  obtain ⟨v, lk, t, d⟩ := l
  revert h hl
  cases w <;> cases l0 <;> cases l1 <;> cases lk <;> simp [CacheSet.oneLock, CacheSet.way, CacheSet.setWay]

theorem State.refilledSet_oneLock (s : State) (a : Nat) (c : CacheSet) (h : c.oneLock = true) :
    (s.refilledSet a c).oneLock = true := by
  simp only [State.refilledSet]
  split
  · split
    · exact h
    · exact s.touched_oneLock _ _ _ (CacheSet.setWay_oneLock _ _ _ h fun x => x)
  · exact s.touched_oneLock _ _ _ (CacheSet.setWay_oneLock _ _ _ h (by simp))

theorem State.CacheOk.fillWord {s : State} (h : s.CacheOk) (a : Nat) : (s.fillWord a).CacheOk :=
  h.writeSet (s.setIndex_lt a) _ (s.refilledSet_oneLock a _ (h.oneLock _))

theorem State.CacheOk.fillWords {s : State} (h : s.CacheOk) (words : List Nat) :
    (words.foldl State.fillWord s).CacheOk := by
  induction words generalizing s with
  | nil => exact h
  | cons a rest ih => exact ih (h.fillWord a)

theorem State.CacheOk.storeHit {s : State} (h : s.CacheOk) (a : Nat) (w : Bool) (lanes : List LaneByte) :
    (s.storeHit a w lanes).CacheOk :=
  h.writeSet (s.setIndex_lt a) _ (s.touched_oneLock _ _ _ (CacheSet.setWay_oneLock _ _ _ (h.oneLock _) fun x => x))

theorem State.CacheOk.hitInvalidate {s : State} (h : s.CacheOk) (a : Nat) : (s.hitInvalidate a).CacheOk := by
  simp only [State.hitInvalidate]
  split
  · exact h
  · exact h.writeSet (s.setIndex_lt a) _ (CacheSet.setWay_oneLock _ _ _ (h.oneLock _) fun x => x)

theorem State.CacheOk.indexLruBitClear {s : State} (h : s.CacheOk) (a : Nat) : (s.indexLruBitClear a).CacheOk :=
  h.writeSet (s.setIndex_lt a) _ (h.oneLock _)

theorem State.CacheOk.indexLockBitClear {s : State} (h : s.CacheOk) (a : Nat) : (s.indexLockBitClear a).CacheOk :=
  h.writeSet (s.setIndex_lt a) _ (by simp [CacheSet.oneLock])

theorem State.CacheOk.snoop {s : State} (h : s.CacheOk) (a : Nat) : (s.snoop a).CacheOk := by
  simp only [State.snoop]
  split
  · exact h
  · split
    · exact h
    · exact h.writeSet (s.setIndex_lt a) _
        (CacheSet.setWay_oneLock (s.readSet (s.setIndex a)) _ _ (h.oneLock _) fun x => x)

theorem State.reset_cacheOk : State.reset.CacheOk := ⟨rfl, fun _ => rfl⟩

/-! What an access does to its set. -/

/-- Noting an access to a way whose line was just written. -/
theorem State.touched_accessed (s : State) (c : CacheSet) (w : Bool) (l : Line) (hv : l.valid = true) :
    Accessed s c (s.touched (c.setWay w l) w s.autoLock) w l.tag l.data l.lock := by
  obtain ⟨v, lk, t, d⟩ := l
  cases hv
  refine ⟨?_, ?_, ?_⟩
  · simp only [State.touched, CacheSet.way_setWay_same, CacheSet.way_setWay_other, CacheSet.way_setLru]
    rfl
  · simp only [State.touched, CacheSet.way_setWay_same, CacheSet.way_setWay_other, CacheSet.way_setLru]
  · simp only [State.touched, State.designates, State.lruFor, CacheSet.way_setWay_other]
    cases (c.way (!w)).lock <;> cases w <;> cases s.platform.product.lruZeroWay <;> rfl

/-- The way that a refill replaces. -/
theorem State.victimWay_replaces (s : State) (c : CacheSet) : Replaces s c (s.victimWay c) := by
  obtain ⟨⟨v0, l0, t0, d0⟩, ⟨v1, l1, t1, d1⟩, r⟩ := c
  refine ⟨?_, ?_, ?_⟩ <;> cases v0 <;> cases l0 <;> cases v1 <;> cases l1 <;> cases r <;>
    cases h : s.platform.product.lruZeroWay <;>
    simp [State.victimWay, State.designates, CacheSet.way, h]

/-! Data reads. -/

/-- The parts of the state that a data read leaves alone. -/
structure SameButCache (s t : State) : Prop where
  gpr : t.gpr = s.gpr
  pc : t.pc = s.pc
  nextPc : t.nextPc = s.nextPc
  slot : t.slot = s.slot
  hi : t.hi = s.hi
  lo : t.lo = s.lo
  cp0 : t.cp0 = s.cp0
  hidden : t.hidden = s.hidden
  platform : t.platform = s.platform
  draws : t.draws = s.draws
  stale : t.memory.stale = s.memory.stale
  icache : t.memory.icache = s.memory.icache
  bytes : ∀ a, t.busByte a = s.busByte a
  wf : Memory.wf s.memory.bytes = true → Memory.wf t.memory.bytes = true

theorem SameButCache.refl (s : State) : SameButCache s s :=
  ⟨rfl, rfl, rfl, rfl, rfl, rfl, rfl, rfl, rfl, rfl, rfl, rfl, fun _ => rfl, id⟩

theorem SameButCache.trans {s t u : State} (h : SameButCache s t) (k : SameButCache t u) : SameButCache s u :=
  ⟨k.gpr.trans h.gpr, k.pc.trans h.pc, k.nextPc.trans h.nextPc, k.slot.trans h.slot, k.hi.trans h.hi,
    k.lo.trans h.lo, k.cp0.trans h.cp0, k.hidden.trans h.hidden, k.platform.trans h.platform, k.draws.trans h.draws,
    k.stale.trans h.stale, k.icache.trans h.icache, fun a => (k.bytes a).trans (h.bytes a), fun w => k.wf (h.wf w)⟩

theorem SameButCache.drain (s : State) : SameButCache s s.drain :=
  ⟨rfl, rfl, rfl, rfl, rfl, rfl, rfl, rfl, rfl, rfl, rfl, rfl, fun _ => rfl, State.drain_wf⟩

theorem SameButCache.writeSet (s : State) (i : Nat) (c : CacheSet) : SameButCache s (s.writeSet i c) :=
  ⟨rfl, rfl, rfl, rfl, rfl, rfl, rfl, rfl, rfl, rfl, rfl, rfl, fun _ => rfl, id⟩

theorem SameButCache.fillWords (s : State) (words : List Nat) : SameButCache s (words.foldl State.fillWord s) := by
  induction words generalizing s with
  | nil => exact SameButCache.refl s
  | cons a rest ih => exact (SameButCache.writeSet s _ _).trans (ih _)

theorem SameButCache.recordAccess (s : State) (d : DeviceAccess) : SameButCache s (s.recordAccess d) :=
  ⟨rfl, rfl, rfl, rfl, rfl, rfl, rfl, rfl, rfl, rfl, rfl, rfl, fun _ => rfl, id⟩

theorem SameButCache.seenByDevices (s : State) (l : List Nat) (f : List Nat → DeviceAccess) :
    SameButCache s (s.seenByDevices l f) := by
  refine ⟨?_, ?_, ?_, ?_, ?_, ?_, ?_, ?_, ?_, ?_, ?_, ?_, fun a => ?_, ?_⟩ <;> simp

/-- Devices see nothing of a read that reaches none. -/
theorem State.seenByDevices_none {s : State} {l : List Nat} (h : ∀ a ∈ l, s.platform.isDevice a = false)
    (f : List Nat → DeviceAccess) : s.seenByDevices l f = s := by
  have : l.filter s.platform.isDevice = [] := List.filter_eq_nil_iff.2 fun a ha => by simp [h a ha]
  simp [State.seenByDevices, this]

/-- What a data read can do: it answers with a state that differs in the data cache, the write buffer and what devices
have seen only. -/
theorem State.dataRead_spec (s : State) (a : Nat) (cacheable : Bool) (bytes : List Nat) :
    (∃ w uncached t, s.dataRead a cacheable bytes = .word w uncached t ∧ SameButCache s t ∧ (s.CacheOk → t.CacheOk)) ∨
    ∃ single uncached, s.dataRead a cacheable bytes = .busError single uncached s.drain := by
  simp only [State.dataRead]
  split
  · split
    · refine .inl ⟨_, _, _, rfl, SameButCache.writeSet s _ _, fun h => ?_⟩
      exact h.writeSet (s.setIndex_lt a) _ (s.touched_oneLock _ _ _ (h.oneLock _))
    · split
      · exact .inr ⟨_, _, rfl⟩
      · refine .inl ⟨_, _, _, rfl, ((SameButCache.drain s).trans (SameButCache.fillWords _ _)).trans
          (SameButCache.seenByDevices _ _ _), fun h => ?_⟩
        exact (State.CacheOk.fillWords (h.of_same (t := s.drain) ⟨rfl, rfl⟩) _).of_same
          ⟨State.seenByDevices_dcache _ _ _, State.seenByDevices_lru _ _ _⟩
  · split
    · exact .inr ⟨_, _, rfl⟩
    · split
      · exact .inl ⟨_, _, _, rfl, (SameButCache.drain s).trans (SameButCache.recordAccess _ _), fun h => h.of_same ⟨rfl, rfl⟩⟩
      · exact .inl ⟨_, _, _, rfl, SameButCache.drain s, fun h => h.of_same ⟨rfl, rfl⟩⟩

/-- A word that no device holds is read from main memory. -/
theorem State.readWord_memory {s : State} {a : Nat} (h : s.platform.isDevice a = false) :
    s.readWord a = s.busWord a := by
  unfold State.readWord
  unfold Platform.isDevice at h
  cases hh : s.platform.handler a with
  | none => rfl
  | some d => simp [hh] at h

/-- The refill of one word, as the data cache shows it. -/
theorem State.refills_of_fill {s t : State} {b : Nat} (hb : s.platform.isDevice b = false)
    (h : t.readSet (s.setIndex b) = s.refilledSet b (s.readSet (s.setIndex b))) : Refills s t b := by
  unfold Refills
  rw [h]
  simp only [State.refilledSet, State.readWord_memory hb, State.hitWay]
  cases hh : (s.readSet (s.setIndex b)).hit (s.tagOf b) with
  | some w =>
    have hs := CacheSet.hit_some hh
    refine ⟨fun w' e hl => ?_, fun w' e hl => ?_, fun e => by cases e⟩
    · cases e; simp [hl]
    · cases e
      simp only [hl, Bool.false_eq_true, if_false]
      have := s.touched_accessed (s.readSet (s.setIndex b)) w
        { (s.readSet (s.setIndex b)).way w with data := s.busWord b } hs.1
      simp only [hl, hs.2] at this ⊢
      exact this
  | none =>
    exact ⟨fun w' e => (nomatch e), fun w' e => (nomatch e), fun _ =>
      ⟨_, s.victimWay_replaces _, s.touched_accessed _ _ _ rfl⟩⟩

/-- The words of a refill go to different sets, so each set shows the refill of its own word. -/
theorem State.readSet_fillWords {s : State} (h : Sparse.wf Ways.empty s.memory.dcache = true) (words : List Nat)
    (hd : (words.map s.setIndex).Nodup) :
    (∀ b ∈ words, (words.foldl State.fillWord s).readSet (s.setIndex b) =
      s.refilledSet b (s.readSet (s.setIndex b))) ∧
    ∀ j, (∀ b ∈ words, s.setIndex b ≠ j) → (words.foldl State.fillWord s).readSet j = s.readSet j := by
  induction words generalizing s with
  | nil => exact ⟨fun b hb => by simp at hb, fun _ _ => rfl⟩
  | cons x rest ih =>
    simp only [List.map_cons, List.nodup_cons] at hd
    have hx (j : Nat) : (s.fillWord x).readSet j =
        if j = s.setIndex x then s.refilledSet x (s.readSet (s.setIndex x)) else s.readSet j :=
      State.readSet_writeSet h (s.setIndex_lt x) j _
    obtain ⟨i1, i2⟩ := ih (s := s.fillWord x) (State.writeSet_wf h _ _) hd.2
    simp only [List.foldl_cons]
    refine ⟨fun b hb => ?_, fun j hj => ?_⟩
    · rcases List.mem_cons.1 hb with rfl | hb
      · have : ∀ b' ∈ rest, (s.fillWord b).setIndex b' ≠ s.setIndex b := fun b' h' e =>
          hd.1 (by rw [← e]; exact List.mem_map_of_mem h')
        rw [i2 _ this, hx, if_pos rfl]
      · have hne : s.setIndex b ≠ s.setIndex x := fun e => hd.1 (by rw [← e]; exact List.mem_map_of_mem hb)
        have := i1 b hb
        have e : (s.fillWord x).setIndex b = s.setIndex b := rfl
        rw [e, hx, if_neg hne] at this
        rw [this]
        rfl
    · rw [i2 j fun b hb => hj b (by simp [hb]), hx, if_neg fun e => hj x (by simp) e.symm]

theorem State.fillWords_devices (s : State) (words : List Nat) :
    (words.foldl State.fillWord s).drainedDevices = s.drainedDevices := by
  induction words generalizing s with
  | nil => rfl
  | cons x rest ih => exact (ih _).trans rfl

/-- Two words a little apart do not fall on one index. -/
theorem mod_shift_inj {q n x y : Nat} (e : (q + x) % n = (q + y) % n) (hx : x < n) (hy : y < n) : x = y := by
  have h : x % n = y % n := Nat.ModEq.add_left_cancel' q e
  rwa [Nat.mod_eq_of_lt hx, Nat.mod_eq_of_lt hy] at h

/-- A word is in the block around it. -/
theorem self_mem_blockWords (s : State) (v : Word) : accessWord v ∈ blockWords s.cp0.dataRefillBytes (accessWord v) := by
  obtain ⟨n, hn⟩ : ∃ n, s.cp0.dataRefillBytes = 4 * (n + 1) := by
    unfold Cp0.dataRefillBytes refillBytes
    split
    · have := Nat.two_pow_pos s.cp0.drSize.toNat
      exact ⟨4 * 2 ^ s.cp0.drSize.toNat - 1, by omega⟩
    · exact ⟨0, rfl⟩
  have ha : accessWord v % 4 = 0 := by unfold accessWord wordAddress; omega
  rw [hn]
  unfold blockWords
  have h1 := Nat.div_add_mod (accessWord v) (4 * (n + 1))
  have h2 := Nat.mod_lt (accessWord v) (by omega : 0 < 4 * (n + 1))
  have h3 : accessWord v % (4 * (n + 1)) % 4 = 0 := by rw [Nat.mod_mul_right_mod]; exact ha
  refine List.mem_map.2 ⟨accessWord v % (4 * (n + 1)) / 4, List.mem_range.2 (by omega), ?_⟩
  rw [Nat.mul_comm (accessWord v / _)]
  omega

/-- The words of a refill block have different sets: the block is no longer than a way. -/
theorem State.blockWords_sets (s : State) {size : Nat} (hs : size / 4 ≤ 128) (a : Nat) :
    ((blockWords size a).map s.setIndex).Nodup := by
  unfold blockWords
  rw [List.map_map]
  refine List.Nodup.map_on ?_ List.nodup_range
  intro x hx y hy e
  simp only [List.mem_range] at hx hy
  simp only [Function.comp_apply, State.setIndex] at e
  have hn : 128 ≤ 2 ^ s.setBits := by
    have : 2 ^ 7 ≤ 2 ^ s.setBits := Nat.pow_le_pow_right (by decide) (by unfold State.setBits; omega)
    omega
  have hx' : (a / size * size + 4 * x) / 4 = a / size * size / 4 + x := by omega
  have hy' : (a / size * size + 4 * y) / 4 = a / size * size / 4 + y := by omega
  rw [hx', hy'] at e
  exact mod_shift_inj e (by omega) (by omega)

theorem Cp0.dataRefillBytes_le (c : Cp0) : c.dataRefillBytes / 4 ≤ 128 := by
  unfold Cp0.dataRefillBytes
  split
  · unfold refillBytes
    have h : c.drSize.toNat ≤ 3 := by have := c.drSize.isLt; omega
    have : 2 ^ c.drSize.toNat ≤ 2 ^ 3 := Nat.pow_le_pow_right (by decide) h
    omega
  · decide

/-- The data cache of a later state with the same data cache. -/
theorem Caches.congr {s t u : State} {v : Word} (h : Caches s t v) (e : SameDataCache t u) : Caches s u v := by
  refine ⟨fun hc => ⟨e.1.trans (h.around hc).1, e.2.trans (h.around hc).2⟩, fun hc w hw => ?_, fun hc hm => ?_⟩
  · exact ⟨by rw [e.readSet]; exact (h.hit hc w hw).1, fun j hj => by rw [e.readSet]; exact (h.hit hc w hw).2 j hj⟩
  · refine ⟨fun b hb => ?_, fun j hj => ?_⟩
    · have := (h.miss hc hm).1 b hb
      unfold Refills at *
      rwa [e.readSet]
    · rw [e.readSet]; exact (h.miss hc hm).2 j hj

/-- The word that a data read answers, from what is in the cache or in memory, and the data cache after it. -/
theorem State.dataRead_word (s : State) (v : Word) {bytes : List Nat}
    (h : ((s.foundLine v).isSome || s.memoryAnswers v) = true) :
    ∃ uncached t, s.dataRead (accessWord v) (segmentMap v).cacheable bytes = .word (s.seenWord v) uncached t ∧
      SameButCache s t ∧ t.drainedDevices = s.drainedDevices ∧
      (Sparse.wf Ways.empty s.memory.dcache = true → Caches s t v) := by
  unfold State.seenWord State.foundLine State.dataRead
  unfold State.foundLine State.memoryAnswers at h
  by_cases hc : s.throughDataCache v = true
  · have hc' : ((segmentMap v).cacheable && s.cp0.dce) = true := hc
    rw [if_pos hc] at h ⊢
    rw [if_pos hc']
    have ht : s.readTransaction v = blockWords s.cp0.dataRefillBytes (accessWord v) := by
      unfold State.readTransaction; rw [if_pos hc]
    have hw : s.hitWay (accessWord v) = (s.readSet (s.setIndex (accessWord v))).hit (s.tagOf (accessWord v)) := rfl
    dsimp only
    rw [← hw]
    cases hh : s.hitWay (accessWord v) with
    | some w =>
      refine ⟨_, _, rfl, SameButCache.writeSet s _ _, rfl, fun wf => ⟨fun x => ?_, fun _ w' e => ⟨?_, fun j hj => ?_⟩, fun _ e => ?_⟩⟩
      · rw [hc] at x; cases x
      · rw [hh] at e; cases e
        rw [State.readSet_writeSet wf (s.setIndex_lt _), if_pos rfl]
        have hs := CacheSet.hit_some (hw.symm.trans hh)
        have := s.touched_accessed (s.readSet (s.setIndex (accessWord v))) w _ hs.1
        rwa [CacheSet.setWay_way, hs.2] at this
      · rw [State.readSet_writeSet wf (s.setIndex_lt _), if_neg hj]
      · rw [hh] at e; cases e
    | none =>
      rw [hh, ht] at h
      have h' : ∀ b ∈ blockWords s.cp0.dataRefillBytes (accessWord v),
          s.platform.readFails b = false ∧ s.platform.isDevice b = false := by simpa using h
      have h1 : (blockWords s.cp0.dataRefillBytes (accessWord v)).any s.platform.readFails = false := by
        rw [List.any_eq_false]; intro b hb; simp [(h' b hb).1]
      have h2 : ∀ b ∈ blockWords s.cp0.dataRefillBytes (accessWord v), s.platform.isDevice b = false :=
        fun b hb => (h' b hb).2
      have hk := SameButCache.fillWords s.drain (blockWords s.cp0.dataRefillBytes (accessWord v))
      simp only [h1, Bool.false_eq_true, if_false]
      have h2' : ∀ b ∈ blockWords s.cp0.dataRefillBytes (accessWord v),
          ((blockWords s.cp0.dataRefillBytes (accessWord v)).foldl State.fillWord s.drain).platform.isDevice b = false := by
        rw [hk.platform]; exact h2
      rw [State.seenByDevices_none h2', State.readWord_memory (h2 _ (self_mem_blockWords s v))]
      refine ⟨_, _, rfl, (SameButCache.drain s).trans hk, State.fillWords_devices _ _, fun wf =>
        ⟨fun x => ?_, fun _ w e => ?_, fun _ _ => ?_⟩⟩
      · rw [hc] at x; cases x
      · rw [hh] at e; cases e
      · rw [ht]
        have := State.readSet_fillWords (s := s.drain) wf (blockWords s.cp0.dataRefillBytes (accessWord v))
          (s.drain.blockWords_sets s.cp0.dataRefillBytes_le _)
        exact ⟨fun b hb => State.refills_of_fill (h2 b hb) (this.1 b hb), this.2⟩
  · have hc' : ((segmentMap v).cacheable && s.cp0.dce) = false := Bool.eq_false_iff.2 hc
    have ht : s.readTransaction v = [accessWord v] := by
      unfold State.readTransaction; rw [if_neg hc]
    rw [if_neg hc, ht] at h
    rw [if_neg hc, hc']
    have h' : s.platform.readFails (accessWord v) = false ∧ s.platform.isDevice (accessWord v) = false := by
      simpa using h
    simp only [h'.1, h'.2, Bool.false_eq_true, if_false, State.readWord_memory h'.2]
    refine ⟨_, _, rfl, SameButCache.drain s, rfl, fun _ => ⟨fun _ => ⟨rfl, rfl⟩, fun x => absurd x hc, fun x =>
      absurd x hc⟩⟩

/-! Data writes. -/

/-- The parts of the state that a data write leaves alone. -/
structure SameButMemory (s t : State) : Prop where
  gpr : t.gpr = s.gpr
  pc : t.pc = s.pc
  nextPc : t.nextPc = s.nextPc
  slot : t.slot = s.slot
  hi : t.hi = s.hi
  lo : t.lo = s.lo
  cp0 : t.cp0 = s.cp0
  hidden : t.hidden = s.hidden
  platform : t.platform = s.platform
  draws : t.draws = s.draws
  icache : t.memory.icache = s.memory.icache
  stored : t.memory.bytes = s.memory.bytes

/-- What a data write can do: the stored lanes enter the write buffer as one bus write, or stay in a locked line. -/
theorem State.dataWrite_spec (s : State) (a : Nat) (cacheable : Bool) (lanes : List LaneByte) :
    SameButMemory s (s.dataWrite a cacheable lanes) ∧ (s.CacheOk → (s.dataWrite a cacheable lanes).CacheOk) ∧
      ((∀ b, (s.dataWrite a cacheable lanes).busByte b = s.busByte b) ∨
        ∀ b, (s.dataWrite a cacheable lanes).busByte b =
          (s.pushWrite (laneCells s.platform.product.bigEndianMem a lanes)).busByte b) := by
  have key : ∀ s1 : State, (s1 = s ∨ ∃ w, s1 = s.storeHit a w lanes) → ∀ b x y,
      SameButMemory s (s1.addStale b x y) ∧ (s.CacheOk → (s1.addStale b x y).CacheOk) ∧
      (∀ c, (s1.addStale b x y).busByte c = s.busByte c) ∧
      ∀ cells, SameButMemory s ((s1.addStale b x y).pushWrite cells) ∧
        (s.CacheOk → ((s1.addStale b x y).pushWrite cells).CacheOk) ∧
        ∀ c, ((s1.addStale b x y).pushWrite cells).busByte c = (s.pushWrite cells).busByte c := by
    rintro s1 (rfl | ⟨w, rfl⟩) b x y
    · exact ⟨⟨rfl, rfl, rfl, rfl, rfl, rfl, rfl, rfl, rfl, rfl, rfl, rfl⟩, fun h => h.of_same ⟨rfl, rfl⟩, fun _ => rfl,
        fun _ => ⟨⟨rfl, rfl, rfl, rfl, rfl, rfl, rfl, rfl, rfl, rfl, rfl, rfl⟩, fun h => h.of_same ⟨rfl, rfl⟩, fun _ => rfl⟩⟩
    · exact ⟨⟨rfl, rfl, rfl, rfl, rfl, rfl, rfl, rfl, rfl, rfl, rfl, rfl⟩,
        fun h => (h.storeHit a w lanes).of_same ⟨rfl, rfl⟩,
        fun _ => rfl, fun _ => ⟨⟨rfl, rfl, rfl, rfl, rfl, rfl, rfl, rfl, rfl, rfl, rfl, rfl⟩,
          fun h => (h.storeHit a w lanes).of_same ⟨rfl, rfl⟩, fun _ => rfl⟩⟩
  simp only [State.dataWrite]
  generalize (if (cacheable && s.cp0.dce) = true then s.hitWay a else none) = hit
  cases hit with
  | none =>
    have k := key s (.inl rfl) a (s.nextPc.toNat / 16) false
    exact ⟨(k.2.2.2 _).1, (k.2.2.2 _).2.1, .inr (k.2.2.2 _).2.2⟩
  | some w =>
    have k := key _ (.inr ⟨w, rfl⟩) a (s.nextPc.toNat / 16) false
    dsimp only
    split
    · exact ⟨k.1, k.2.1, .inl k.2.2.1⟩
    · exact ⟨(k.2.2.2 _).1, (k.2.2.2 _).2.1, .inr (k.2.2.2 _).2.2⟩

end Sys2Proof.Machine
end

