-- ==== Sys2Proof/Laws/Ops.lean ====
section
/-! SUPPORT. What each shared operation can do, said once: the meanings are one of these over a value. -/

namespace Sys2Proof.Machine

/-! The frames of the state operations. -/

theorem Quiet.advance (s : State) (ice : Bool) (next : Word) (slot : Slot) : Quiet s (s.advance ice next slot) :=
  ⟨rfl, ⟨fun _ => rfl, rfl, rfl, rfl, rfl⟩, rfl⟩

/-- What completing does to the hidden state: it ages as `settledHidden` says. -/
theorem State.advance_settled {s u : State} (hh : u.hidden = s.hidden) (hs : u.slot = s.slot)
    (hp : u.platform = s.platform) (ice : Bool) (next : Word) (slot : Slot) :
    (u.advance ice next slot).hidden = s.settledHidden (u.advance ice next slot) := by
  simp only [State.advance, State.completedHidden, State.settledHidden, State.nextReadAge, State.agedWindows,
    State.agedLate, Windows.age, hh, hs, hp]

theorem State.retire_settled {s u : State} (hh : u.hidden = s.hidden) (hs : u.slot = s.slot)
    (hp : u.platform = s.platform) : u.retire.hidden = s.settledHidden u.retire := State.advance_settled hh hs hp _ _ _

theorem Sequential.retire (s : State) : Sequential s s.retire := ⟨rfl, rfl, rfl⟩

theorem Jumps.jump (s : State) (target : Word) : Jumps s (s.jump target) target := ⟨rfl, rfl, rfl⟩

/-- The displacement of a branch is the offset with two zeros appended, sign extended (R302). -/
theorem branchDisplacement_eq (offset : BitVec 16) : branchDisplacement offset = (offset ++ 0#2).signExtend 32 := by
  unfold branchDisplacement sext16
  have : ∀ o : BitVec 16, o.signExtend 32 <<< (2 : Nat) = (o ++ 0#2).signExtend 32 := by
    intro o
    ext i hi
    simp only [BitVec.getElem_shiftLeft, BitVec.getElem_signExtend, BitVec.msb_append, BitVec.getElem_append]
    by_cases h2 : i < 2
    · simp [h2]; omega
    · by_cases h18 : i < 18
      · have : i - 2 < 16 := by omega
        simp [h2, h18, this]
      · have : ¬i - 2 < 16 := by omega
        simp [h2, h18, this]
  exact this offset

/-! Completing. -/

theorem complete_spec (s : State) : OnlyAdvances s (complete s) :=
  ⟨s.retire, rfl, fun _ => rfl, ⟨rfl, rfl⟩, .retire s, rfl, ⟨fun _ => rfl, rfl, rfl, rfl, rfl⟩, rfl, rfl⟩

/-- A result goes to a register and nothing else changes. -/
theorem writeAndComplete_spec (s : State) (rd : RegIndex) (v : Word) : Delivers s (writeAndComplete s rd v) rd v := by
  refine ⟨(s.writeReg rd v).retire, rfl, ⟨?_, fun i h => ?_⟩, ⟨?_, ?_⟩, ⟨?_, ?_, ?_⟩, ⟨?_, ⟨fun a => ?_, ?_, ?_, ?_, ?_⟩, ?_⟩,
    State.retire_settled (by simp) (by simp) (by simp)⟩ <;>
    simp [State.writeReg_reg_same, State.settledCp0]
  exact s.writeReg_reg_other rd i v h

theorem writeUnlessOverflow_false (s : State) (rd : RegIndex) (v : Word) :
    Delivers s (writeUnlessOverflow s false rd v) rd v := writeAndComplete_spec s rd v

/-- Outside a debug handler an instruction that raises an exception makes its entry. -/
theorem State.raise_eq {s : State} (h : s.inDebug = false) (e : Exception) : s.raise e = .next (s.exceptionEntry e) := by
  simp [State.raise, h]

theorem writeUnlessOverflow_true {s : State} (h : s.inDebug = false) (rd : RegIndex) (v : Word) :
    writeUnlessOverflow s true rd v = .next (s.exceptionEntry .overflow) := State.raise_eq h _

theorem State.withCop_usable {s : State} {z : BitVec 2} (h : s.usable z = true) (r : Result) : s.withCop z r = r := by
  simp [State.withCop, h]

theorem State.withCop_unusable {s : State} {z : BitVec 2} (h : s.usable z = false) (hd : s.inDebug = false) (r : Result) :
    s.withCop z r = .next (s.exceptionEntry (.coprocessorUnusable z)) := by
  simp [State.withCop, h, State.raise_eq hd]

/-! Jumps and branches. -/

theorem outsideSlot_none {s : State} (h : s.slot = .none) (r : Result) : outsideSlot s r = r := by
  simp [outsideSlot, State.inDelaySlot, h, Slot.isNone]

theorem outsideSlot_slot {s : State} (h : s.slot ≠ .none) (r : Result) : outsideSlot s r = .refused .branchInDelaySlot := by
  unfold outsideSlot State.inDelaySlot Slot.isNone
  cases hs : s.slot <;> simp_all

/-- A branch outside a delay slot, by its condition. -/
theorem branch_spec {s : State} (h : s.slot = .none) (c : Bool) (offset : BitVec 16) :
    Branches s (branch s c offset) (SameRegisters s) (c = true) offset := by
  unfold branch
  rw [outsideSlot_none h]
  cases c
  · exact ⟨s.fallThrough, rfl, fun _ => rfl, ⟨rfl, rfl⟩, .advance s _ _ _, rfl, rfl, by simp, fun _ => ⟨rfl, rfl⟩⟩
  · refine ⟨s.jump (s.branchTarget offset), rfl, fun _ => rfl, ⟨rfl, rfl⟩, .advance s _ _ _, rfl, rfl, fun _ => ⟨?_, rfl⟩,
      by simp⟩
    simp [State.branchTarget, branchDisplacement_eq]

theorem State.nullifySlot_plain {s : State} (h : s.slotIsPlain = true) : s.nullifySlot = .next s.nullify := by
  unfold State.nullifySlot
  unfold State.slotIsPlain at h
  revert h
  cases s.fetchSlot with
  | word w => intro h; simp at h; simp [h]
  | addressError => simp
  | busError => simp
  | stale => simp

/-- A likely branch outside a delay slot and before a word that is no jump, by its condition. -/
theorem branchLikely_spec {s : State} (h : s.slot = .none) (hp : s.slotIsPlain = true) (c : Bool) (offset : BitVec 16) :
    BranchesLikely s (branchLikely s c offset) (SameRegisters s) (c = true) offset := by
  unfold branchLikely
  rw [outsideSlot_none h]
  cases c
  · refine ⟨s.nullify, by simp [State.nullifySlot_plain hp], fun _ => rfl, ⟨rfl, rfl⟩, ⟨rfl, ⟨fun _ => rfl, rfl, rfl, rfl, rfl⟩, rfl⟩,
      rfl, by simp, fun _ => ⟨rfl, rfl, rfl⟩⟩
  · refine ⟨s.jump (s.branchTarget offset), rfl, fun _ => rfl, ⟨rfl, rfl⟩, .advance s _ _ _, rfl, fun _ => ⟨rfl, ?_, rfl⟩,
      by simp⟩
    simp [State.branchTarget, branchDisplacement_eq]

@[simp] theorem State.link_slotIsPlain (s : State) : s.link.slotIsPlain = s.slotIsPlain := by
  unfold State.link State.writeReg linkRegister; rw [if_neg (by decide)]; rfl

@[simp] theorem State.link_settledCp0 (s : State) : s.link.settledCp0 = s.settledCp0 := by
  simp [State.settledCp0]

/-- The link value goes to r31 (R301). -/
theorem State.link_spec (s : State) : Links s s.link := s.writeReg_only _ _

/-! The lanes that a store writes are lanes of the word. -/

theorem byteSelector_lt (big : Bool) (v : Word) : byteSelector big v < 4 := by
  unfold byteSelector; dsimp only; split <;> exact BitVec.isLt _

/-- A halfword access that is aligned starts at lane 0 or 2. -/
theorem halfSelector_even (big : Bool) {v : Word} (h : unaligned2 v = false) :
    halfSelector big v = 0 ∨ halfSelector big v = 2 := by
  have key : ∀ a : BitVec 2, a.getLsbD 0 = false → a = 0#2 ∨ a = 2#2 := by decide
  unfold halfSelector
  rcases key (v.extractLsb' 0 2) (by simpa [unaligned2] using h) with e | e <;> rw [e] <;> cases big <;> simp

theorem storedByte_lanes (big : Bool) (v x : Word) : ∀ l ∈ storedByte (byteSelector big v) x, l.1 < 4 := by
  intro l hl
  simp only [storedByte, List.mem_singleton] at hl
  subst hl; exact byteSelector_lt big v

theorem storedHalf_lanes (big : Bool) {v : Word} (h : unaligned2 v = false) (x : Word) :
    ∀ l ∈ storedHalf (halfSelector big v) x, l.1 < 4 := by
  intro l hl
  simp only [storedHalf, List.mem_cons, List.not_mem_nil, or_false] at hl
  rcases halfSelector_even big h with e | e <;> rw [e] at hl <;> rcases hl with rfl | rfl <;> simp

theorem storedWord_lanes (lane : Nat) (x : Word) : ∀ l ∈ storedWord lane x, l.1 < 4 := by
  intro l hl
  simp only [storedWord, List.mem_cons, List.not_mem_nil, or_false] at hl
  rcases hl with rfl | rfl | rfl | rfl <;> simp

theorem storedLeft_lanes (big : Bool) (v x : Word) : ∀ l ∈ storedLeft (byteSelector big v) x, l.1 < 4 := by
  intro l hl
  simp only [storedLeft, leftLanes, List.mem_map, List.mem_range] at hl
  obtain ⟨k, hk, rfl⟩ := hl
  have := byteSelector_lt big v
  dsimp only; omega

theorem storedRight_lanes (big : Bool) (v x : Word) : ∀ l ∈ storedRight (byteSelector big v) x, l.1 < 4 := by
  intro l hl
  simp only [storedRight, rightLanes, List.mem_map, List.mem_range] at hl
  obtain ⟨k, ⟨j, hj, rfl⟩, rfl⟩ := hl
  have := byteSelector_lt big v
  dsimp only; omega

/-! Loads and stores. -/

@[simp] theorem State.clearTlf_foundLine (s : State) (v : Word) : s.clearTlf.foundLine v = s.foundLine v := rfl
@[simp] theorem State.clearTlf_memoryAnswers (s : State) (v : Word) : s.clearTlf.memoryAnswers v = s.memoryAnswers v := rfl
@[simp] theorem State.clearTlf_seenWord (s : State) (v : Word) : s.clearTlf.seenWord v = s.seenWord v := rfl

/-- The registers that a state operation on `gpr` alone leaves. -/
theorem State.reg_congr {s t : State} (h : t.gpr = s.gpr) (i : RegIndex) : t.reg i = s.reg i := by
  simp only [State.reg, h]

theorem Accessed.of_clearTlf {s : State} {c c' : CacheSet} {w : Bool} {tag : Nat} {data : Word} {locked : Bool}
    (h : Accessed s.clearTlf c c' w tag data locked) : Accessed s c c' w tag data locked := ⟨h.line, h.other, h.lru⟩

theorem Refills.of_clearTlf {s t : State} {b : Nat} (h : Refills s.clearTlf t b) : Refills s t b :=
  ⟨h.1, fun w e l => (h.2.1 w e l).of_clearTlf, fun e =>
    have ⟨w, r, a⟩ := h.2.2 e
    ⟨w, ⟨r.lock, r.valid, r.lru⟩, a.of_clearTlf⟩⟩

/-- The clearing of Debug.TLF makes no difference to the data cache. -/
theorem Caches.of_clearTlf {s t : State} {v : Word} (h : Caches s.clearTlf t v) : Caches s t v :=
  ⟨h.around, fun hc w hw => ⟨(h.hit hc w hw).1.of_clearTlf, (h.hit hc w hw).2⟩, fun hc hm =>
    ⟨fun b hb => ((h.miss hc hm).1 b hb).of_clearTlf, (h.miss hc hm).2⟩⟩

/-- A load that completes: the register takes the value made from the memory word seen. -/
theorem load_spec {s : State} {unaligned : Word → Bool} {base : RegIndex} {offset : BitVec 16}
    (h : s.loadCompletes unaligned (s.effectiveAddress base offset) = true) (selector : Bool → Word → Nat)
    (lanes : Nat → List Nat) (result : Nat → Word → Word → Word) (rt : RegIndex) :
    Loads s (load unaligned selector lanes result base rt offset s) (s.effectiveAddress base offset) rt
      (result (selector s.bigEndianCpu (s.effectiveAddress base offset)) (s.seenWord (s.effectiveAddress base offset))
        (s.reg rt)) := by
  simp only [State.loadCompletes, State.accessAllowed, Bool.and_eq_true, Bool.not_eq_true'] at h
  obtain ⟨⟨h1, h2⟩, h3⟩ := h
  obtain ⟨uncached, t, e, k, kd, kc⟩ := s.clearTlf.dataRead_word (s.effectiveAddress base offset)
    (bytes := (lanes (selector s.bigEndianCpu (s.effectiveAddress base offset))).map
      (laneAddress s.platform.product.bigEndianMem (accessWord (s.effectiveAddress base offset)))) h3
  simp only [load, h1, h2, Bool.false_eq_true, if_false]
  unfold accessWord at e
  rw [e]
  refine ⟨_, rfl, ⟨?_, fun i hi => ?_⟩, ⟨?_, ?_⟩, ⟨?_, ?_, ?_⟩, ?_, ?_,
    ?_, fun a => ?_, ?_, ?_, fun inv => ?_⟩
  case refine_10 =>
    cases uncached <;>
      exact State.retire_settled (u := t.writeReg _ _) (by simp [k.hidden]) (by simp [k.slot]) (by simp [k.platform])
  rotate_right
  · exact (kc inv.dcache).of_clearTlf.congr ⟨by simp, by simp⟩
  all_goals simp
  · rw [State.writeReg_reg_same]
  · rw [State.writeReg_reg_other _ _ _ _ hi]; exact State.reg_congr k.gpr i
  · exact k.hi
  · exact k.lo
  · exact k.nextPc
  · exact k.nextPc
  · simp only [State.settledCp0, State.writeReg_cp0, State.writeReg_slot, k.cp0, k.slot, State.accessCp0]
    rfl
  · exact k.platform
  · exact k.bytes a
  · exact k.icache
  · exact kd

/-- A data write that finds no locked line: the lanes enter the write buffer. -/
theorem State.dataWrite_completes {s : State} {v : Word} (lanes : List LaneByte)
    (hl : (match s.foundLine v with | some l => !l.lock | none => true) = true) :
    ∃ t, s.dataWrite (accessWord v) (segmentMap v).cacheable lanes = t ∧ SameButMemory s t ∧
      (∀ a, t.busByte a =
        (s.pushWrite (laneCells s.platform.product.bigEndianMem (accessWord v) lanes)).busByte a) ∧
      (s.foundLine v = none → SameDataCache s t) ∧
      t.drainedDevices = (s.pushWrite (laneCells s.platform.product.bigEndianMem (accessWord v) lanes)).drainedDevices := by
  unfold State.foundLine at *
  unfold State.dataWrite
  unfold State.throughDataCache at *
  by_cases hc : ((segmentMap v).cacheable && s.cp0.dce) = true
  · rw [if_pos hc] at hl ⊢
    rw [if_pos hc]
    cases hh : s.hitWay (accessWord v) with
    | none =>
      exact ⟨(s.addStale (accessWord v) (s.nextPc.toNat / 16) false).pushWrite
          (laneCells s.platform.product.bigEndianMem (accessWord v) lanes),
        by simp, ⟨rfl, rfl, rfl, rfl, rfl, rfl, rfl, rfl, rfl, rfl, rfl, rfl⟩, fun _ => rfl, fun _ => ⟨rfl, rfl⟩, rfl⟩
    | some w =>
      rw [hh] at hl
      have hl' : ((s.readSet (s.setIndex (accessWord v))).way w).lock = false := by simpa using hl
      exact ⟨((s.storeHit (accessWord v) w lanes).addStale (accessWord v) (s.nextPc.toNat / 16) false).pushWrite
          (laneCells s.platform.product.bigEndianMem (accessWord v) lanes),
        by simp [hl'], ⟨rfl, rfl, rfl, rfl, rfl, rfl, rfl, rfl, rfl, rfl, rfl, rfl⟩, fun _ => rfl, by simp, rfl⟩
  · rw [if_neg hc] at hl ⊢
    rw [if_neg hc]
    exact ⟨(s.addStale (accessWord v) (s.nextPc.toNat / 16) false).pushWrite
        (laneCells s.platform.product.bigEndianMem (accessWord v) lanes),
      by simp, ⟨rfl, rfl, rfl, rfl, rfl, rfl, rfl, rfl, rfl, rfl, rfl, rfl⟩, fun _ => rfl, fun _ => ⟨rfl, rfl⟩, rfl⟩

/-- A bus write to no device is seen by none. -/
theorem State.pushWrite_drainedDevices {s : State} {cells : List Host.Cell}
    (h : ∀ c ∈ cells, s.platform.isDevice c.1 = false) : (s.pushWrite cells).drainedDevices = s.drainedDevices := by
  have : cells.filter (fun c => s.platform.isDevice c.1) = [] := List.filter_eq_nil_iff.2 fun c hc => by simp [h c hc]
  simp [State.drainedDevices, State.pushWrite, List.foldl_append, Platform.busDevices, this]

/-- The bytes of an aligned word belong to one device, or to none. -/
theorem Platform.isDevice_word (p : Platform) {a b : Nat} (h : a / 4 = b / 4) : p.isDevice a = p.isDevice b := by
  unfold Platform.isDevice Platform.handler; rw [h]

theorem laneCells_device {s : State} {big : Bool} {v : Word} {lanes : List LaneByte} (hl : ∀ l ∈ lanes, l.1 < 4) :
    ∀ c ∈ laneCells big (accessWord v) lanes, s.platform.isDevice c.1 = s.platform.isDevice (accessWord v) := by
  intro c hc
  simp only [laneCells, List.mem_map] at hc
  obtain ⟨l, hm, rfl⟩ := hc
  have := hl l hm
  refine s.platform.isDevice_word ?_
  unfold laneAddress accessWord wordAddress
  split <;> omega

/-- A store that completes on the bus. -/
theorem store_spec {s : State} {unaligned : Word → Bool} {base : RegIndex} {offset : BitVec 16}
    (h : s.storeCompletes unaligned (s.effectiveAddress base offset) = true) (selector : Bool → Word → Nat)
    (lanes : Nat → Word → List LaneByte) (rt : RegIndex)
    (hl : ∀ l ∈ lanes (selector s.bigEndianCpu (s.effectiveAddress base offset)) (s.reg rt), l.1 < 4) :
    ∃ t, store unaligned selector lanes base rt offset s = .next t ∧ SameRegisters s t ∧ SameHiLo s t ∧ Sequential s t ∧
      t.cp0 = s.accessCp0 ∧ t.platform = s.platform ∧ t.hidden = s.settledHidden t ∧
      (∀ a, t.busByte a = (s.pushWrite (laneCells s.platform.product.bigEndianMem
        (accessWord (s.effectiveAddress base offset))
        (lanes (selector s.bigEndianCpu (s.effectiveAddress base offset)) (s.reg rt)))).busByte a) ∧
      (s.foundLine (s.effectiveAddress base offset) = none → SameDataCache s t) ∧
      t.memory.icache = s.memory.icache ∧
      (s.platform.isDevice (accessWord (s.effectiveAddress base offset)) = false →
        t.drainedDevices = s.drainedDevices) := by
  simp only [State.storeCompletes, State.accessAllowed, Bool.and_eq_true, Bool.not_eq_true'] at h
  obtain ⟨⟨h1, h2⟩, h4⟩ := h
  obtain ⟨t, e, k, kb, kd, kv⟩ := s.clearTlf.dataWrite_completes
    (lanes (selector s.bigEndianCpu (s.effectiveAddress base offset)) (s.reg rt)) h4
  simp only [store, h1, h2, Bool.false_eq_true, if_false]
  unfold accessWord at e
  rw [e]
  refine ⟨t.retire, rfl, fun i => ?_, ⟨?_, ?_⟩, ⟨?_, ?_, ?_⟩, ?_, ?_, State.retire_settled k.hidden k.slot k.platform,
    fun a => ?_, fun hn => ?_, ?_, fun hd => ?_⟩
  case refine_12 =>
    exact (show t.retire.drainedDevices = t.drainedDevices from rfl).trans (kv.trans
      (State.pushWrite_drainedDevices fun c hc => (laneCells_device (s := s.clearTlf) hl c hc).trans hd))
  case refine_10 => exact kd hn
  all_goals simp
  · exact State.reg_congr k.gpr i
  · exact k.hi
  · exact k.lo
  · exact k.nextPc
  · exact k.nextPc
  · simp only [State.settledCp0, k.cp0, k.slot, State.accessCp0]
    rfl
  · exact k.platform
  · exact kb a
  · exact k.icache

end Sys2Proof.Machine
end

