-- ==== Sys2Proof/Laws/Fetch.lean ====
section
/-! SUPPORT. The laws of the instruction cache: its lines agree with memory as far as a fetch may use them, every
operation on memory keeps that, and so a fetch delivers the word of memory. -/

namespace Sys2Proof.Machine

/-- A word is refused to a cached fetch when an entry for it is not visible. -/
theorem State.isStale_iff (s : State) (word : Nat) :
    s.isStale word true = true ↔ ∃ e ∈ s.memory.stale, e.word = word ∧ e.visibleCached = false := by
  simp [State.isStale]

theorem State.isStale_false (s : State) (word : Nat) :
    s.isStale word true = false ↔ ∀ e ∈ s.memory.stale, e.word = word → e.visibleCached = true := by
  simp [State.isStale]

/-- Devices and the byte order of memory are where they were. -/
structure SameMap (s t : State) : Prop where
  map : t.platform.product.physMap = s.platform.product.physMap
  order : t.platform.product.bigEndianMem = s.platform.product.bigEndianMem

theorem SameMap.isDevice {s t : State} (h : SameMap s t) (a : Nat) :
    t.platform.isDevice a = s.platform.isDevice a := by
  simp only [Platform.isDevice, Platform.handler, Platform.region, h.map]

theorem SameMap.of_platform {s t : State} (h : t.platform = s.platform) : SameMap s t := ⟨by rw [h], by rw [h]⟩

theorem SameMap.busWord {s t : State} (h : SameMap s t) (a : Nat) (b : ∀ k, k < 4 → t.busByte (a + k) = s.busByte (a + k)) :
    t.busWord a = s.busWord a := by
  have h0 := b 0 (by decide)
  rw [Nat.add_zero] at h0
  simp only [State.busWord, h.order, h0, b 1 (by decide), b 2 (by decide), b 3 (by decide)]

/-- The instruction cache is right in a state with the same one, the same memory and no fewer stale words. -/
theorem State.InstructionCacheOk.of_same {s t : State} (h : s.InstructionCacheOk) (hm : SameMap s t)
    (hi : t.memory.icache = s.memory.icache) (hb : ∀ a, t.busByte a = s.busByte a)
    (hs : ∀ word, (s.instructionLine (word / 16)).isSome = true → t.isStale word true = false →
      s.isStale word true = false)
    (hk : ∀ e ∈ t.memory.stale, e.held = false → e.synced = false → s.instructionLine (e.word / 16) = none) :
    t.InstructionCacheOk := by
  have hl (line : Nat) : t.instructionLine line = s.instructionLine line := by unfold State.instructionLine; rw [hi]
  refine ⟨by rw [hi]; exact h.wf, fun line words e k hk' hd hst => ?_, fun e he a b => by rw [hl]; exact hk e he a b⟩
  rw [hl] at e
  rw [hm.isDevice] at hd
  rw [hm.busWord _ fun _ _ => hb _]
  refine h.current line words e k hk' hd (hs _ ?_ hst)
  have : (16 * line + 4 * k) / 16 = line := by omega
  rw [this, e]; rfl

/-- The same with the same stale words. -/
theorem State.InstructionCacheOk.of_same_stale {s t : State} (h : s.InstructionCacheOk) (hm : SameMap s t)
    (hi : t.memory.icache = s.memory.icache) (hb : ∀ a, t.busByte a = s.busByte a)
    (hs : t.memory.stale = s.memory.stale) : t.InstructionCacheOk :=
  h.of_same hm hi hb (fun word _ e => by unfold State.isStale at *; rwa [hs] at e) (by rw [hs]; exact h.marked)

theorem State.InstructionCacheOk.drain {s : State} (h : s.InstructionCacheOk) : s.drain.InstructionCacheOk :=
  h.of_same_stale ⟨rfl, rfl⟩ rfl (fun _ => rfl) rfl

/-- The instruction cache does not ask about the registers. -/
theorem State.InstructionCacheOk.of_memory {s t : State} (h : s.InstructionCacheOk) (hm : t.memory = s.memory)
    (hp : t.platform.product = s.platform.product) : t.InstructionCacheOk := by
  have hr : t.platform.isRam = s.platform.isRam := by funext a; unfold Platform.isRam Platform.region; rw [hp]
  have hw : t.platform.busWrite = s.platform.busWrite := by
    funext m c; unfold Platform.busWrite Platform.writeByte; rw [hr]
  refine h.of_same_stale ⟨by rw [hp], by rw [hp]⟩ (by rw [hm]) (fun a => ?_) (by rw [hm])
  unfold State.busByte State.drainedBytes
  rw [hm, hw]

/-- A SYNC makes visible only words that no line holds in an old value. -/
theorem State.InstructionCacheOk.syncStale {s : State} (h : s.InstructionCacheOk) : s.syncStale.InstructionCacheOk := by
  refine h.of_same ⟨rfl, rfl⟩ rfl (fun _ => rfl) (fun word hl e => ?_) (fun e he _ hy => ?_)
  · rw [State.isStale_false] at *
    intro x hx hw
    have h1 := e { x with synced := true } (List.mem_map.2 ⟨x, hx, rfl⟩) hw
    have h2 : x.held = false := by simpa [StaleWord.visibleCached] using h1
    cases h3 : x.synced
    · have := h.marked x hx h2 h3
      rw [hw] at this
      rw [this] at hl; cases hl
    · simp [StaleWord.visibleCached, h2, h3]
  · obtain ⟨x, _, rfl⟩ := List.mem_map.1 he
    cases hy

theorem State.InstructionCacheOk.staleArrival {s : State} (h : s.InstructionCacheOk) (jump : Bool) (pc : Word) :
    (s.staleArrival jump pc).InstructionCacheOk := by
  refine h.of_same ⟨rfl, rfl⟩ rfl (fun _ => rfl) (fun word _ e => ?_) (fun e he hh hy => ?_)
  · rw [State.isStale_false] at *
    intro x hx hw
    cases hv : x.visibleCached with
    | true => rfl
    | false =>
      have := e { x with jumped := x.jumped || (jump && x.synced), left := x.left || x.block != pc.toNat / 16 }
        (List.mem_filter.2 ⟨List.mem_map.2 ⟨x, hx, rfl⟩, ?_⟩) hw
      · rw [← this]; exact hv.symm
      · have e2 : StaleWord.visibleCached { x with
            jumped := x.jumped || (jump && x.synced), left := x.left || x.block != pc.toNat / 16 } = false := hv
        rw [e2]; rfl
  · obtain ⟨x, hx, rfl⟩ := List.mem_map.1 (List.mem_filter.1 he).1
    exact h.marked x hx hh hy

/-- A word is stored to: it is stale if a line holds it, and the other words are as they were. -/
theorem State.InstructionCacheOk.stored {s t : State} (h : s.InstructionCacheOk) (hm : SameMap s t)
    (hi : t.memory.icache = s.memory.icache) {word block : Nat} {synced : Bool} (ha : word % 4 = 0)
    (hs : t.memory.stale = (s.addStale word block synced).memory.stale)
    (hb : ∀ a, a / 4 ≠ word / 4 → t.busByte a = s.busByte a) : t.InstructionCacheOk := by
  have hl (line : Nat) : t.instructionLine line = s.instructionLine line := by unfold State.instructionLine; rw [hi]
  refine ⟨by rw [hi]; exact h.wf, fun line words e k hk hd hst => ?_, fun e he a b => ?_⟩
  · rw [hl] at e
    rw [State.isStale_false, hs] at hst
    have hne : 16 * line + 4 * k ≠ word := by
      rintro rfl
      have := hst _ (List.mem_cons_self ..) rfl
      have h16 : (16 * line + 4 * k) / 16 = line := by omega
      simp [StaleWord.visibleCached, h16, e] at this
    rw [hm.isDevice] at hd
    rw [hm.busWord _ fun i hi => hb _ (by omega)]
    refine h.current line words e k hk hd ((State.isStale_false _ _).2 fun x hx hw => ?_)
    refine hst x (List.mem_cons_of_mem _ (List.mem_filter.2 ⟨hx, ?_⟩)) hw
    simp only [hw, bne_iff_ne, ne_eq]
    exact hne
  · rw [hs] at he
    rw [hl]
    rcases List.mem_cons.1 he with rfl | he
    · exact (by simpa using a : s.instructionLine (word / 16) = none ∧ _).1
    · exact h.marked e (List.mem_filter.1 he).1 a b

/-- A data write. -/
theorem State.InstructionCacheOk.dataWrite {s : State} (h : s.InstructionCacheOk)
    (hw : Memory.wf s.memory.bytes = true) {a : Nat} (ha : a % 4 = 0) (cacheable : Bool) {lanes : List LaneByte}
    (hl : ∀ l ∈ lanes, l.1 < 4) : (s.dataWrite a cacheable lanes).InstructionCacheOk := by
  obtain ⟨k, -, hb⟩ := s.dataWrite_spec a cacheable lanes
  refine h.stored (SameMap.of_platform k.platform) k.icache (word := a) (block := s.nextPc.toNat / 16) (synced := false)
    ha ?_ (fun b hne => ?_)
  · simp only [State.dataWrite]
    generalize (if (cacheable && s.cp0.dce) = true then s.hitWay a else none) = hit
    cases hit with
    | none => rfl
    | some w => dsimp only; split <;> rfl
  · rcases hb with hb | hb
    · exact hb b
    · rw [hb]
      refine State.pushWrite_busByte_other hw _ _ fun c hc => ?_
      simp only [laneCells, List.mem_map] at hc
      obtain ⟨l, hm, rfl⟩ := hc
      have := hl l hm
      unfold laneAddress
      split <;> simp only [ne_eq] <;> omega

/-- A write by an external master: the word it touches is stale if a line holds it. -/
theorem State.InstructionCacheOk.externalWrite {s : State} (h : s.InstructionCacheOk)
    (hw : Memory.wf s.memory.bytes = true) (a : Nat) (b : Byte) : (s.externalWrite a b).InstructionCacheOk := by
  have hbytes (x : Nat) (hx : x / 4 ≠ a / 4 * 4 / 4) (m : List Host.Cell)
      (hm : m = s.platform.writeByte s.memory.bytes (a, b)) :
      Memory.read (s.memory.buffer.foldl s.platform.busWrite m) x = s.busByte x := by
    refine s.platform.read_busWrites_congr (by rw [hm]; exact s.platform.writeByte_wf hw _) hw _ _ ?_
    have : x ≠ a := by rintro rfl; omega
    rw [hm, s.platform.read_writeByte hw]
    simp [this]
  refine h.stored (SameMap.of_platform ?_) ?_ (word := a / 4 * 4) (block := s.pc.toNat / 16) (synced := true)
    (Nat.mul_mod_left _ _) ?_ (fun x hx => ?_)
  all_goals unfold State.externalWrite; dsimp only
  all_goals split
  any_goals rfl
  · simp
  · simp
  · simp only [State.addStale, State.instructionLine, State.snoop_stale, State.snoop_icache]
  · exact hbytes x hx _ rfl
  · unfold State.busByte State.drainedBytes
    simp only [State.addStale_bytes, State.addStale_buffer, State.addStale_platform, State.snoop_bytes,
      State.snoop_buffer, State.snoop_platform]
    exact hbytes x hx _ rfl

/-- The words of one line have one index. -/
theorem State.icacheIndex_line (s : State) (word : Nat) : s.icacheIndex (16 * (word / 16)) = s.icacheIndex word := by
  unfold State.icacheIndex
  rw [Nat.mul_div_cancel_left _ (by decide)]

/-- The lines after IndexInvalidate: those of the index are invalid (R394). -/
theorem State.indexInvalidate_line {s : State} (h : Sparse.wf none s.memory.icache = true) (a line : Nat) :
    (s.indexInvalidate a).instructionLine line =
      if s.icacheIndex (16 * line) = s.icacheIndex a then none else s.instructionLine line := by
  have := Sparse.read_filter h (fun l => s.icacheIndex (16 * l) != s.icacheIndex a) line
  unfold State.instructionLine State.indexInvalidate
  rw [this]
  by_cases e : s.icacheIndex (16 * line) = s.icacheIndex a <;> simp [e]

theorem State.InstructionCacheOk.indexInvalidate {s : State} (h : s.InstructionCacheOk) (a : Nat) :
    (s.indexInvalidate a).InstructionCacheOk := by
  refine ⟨Sparse.filter_wfFrom h.wf _, fun line words e k hk hd hst => ?_, fun e he hh hy => ?_⟩
  · rw [State.indexInvalidate_line h.wf] at e
    split at e
    · cases e
    · rename_i hne
      refine h.current line words e k hk hd ((State.isStale_false _ _).2 fun x hx hw => ?_)
      have := (State.isStale_false _ _).1 hst
        { x with held := x.held && !(x.synced && s.icacheIndex x.word == s.icacheIndex a) }
        (List.mem_map.2 ⟨x, hx, rfl⟩) hw
      have hx' : s.icacheIndex x.word ≠ s.icacheIndex a := by
        rw [← s.icacheIndex_line x.word, hw]
        have : (16 * line + 4 * k) / 16 = line := by omega
        rwa [this]
      simpa [StaleWord.visibleCached, hx'] using this
  · obtain ⟨x, hx, rfl⟩ := List.mem_map.1 he
    rw [State.indexInvalidate_line h.wf]
    split
    · rfl
    · have hy' : x.synced = false := hy
      refine h.marked x hx ?_ hy'
      simpa [hy'] using hh

/-- The line that a refill brings: the four words as the bus reads them. -/
def State.readLine (s : State) (line : Nat) : Vector Word 4 :=
  #v[s.readWord (16 * line), s.readWord (16 * line + 4), s.readWord (16 * line + 8), s.readWord (16 * line + 12)]

theorem State.readLine_get (s : State) (line k : Nat) (h : k < 4) :
    (s.readLine line)[k] = s.readWord (16 * line + 4 * k) := by
  match k, h with
  | 0, _ => rfl
  | 1, _ => rfl
  | 2, _ => rfl
  | 3, _ => rfl

/-- The lines after a refill (R138). -/
theorem State.fillLines_line {s : State} (h : Sparse.wf none s.memory.icache = true) (lines : List Nat) (line : Nat) :
    Sparse.wf none (s.fillLines lines).memory.icache = true ∧
    (s.fillLines lines).instructionLine line =
      if line ∈ lines then some (s.readLine line) else s.instructionLine line := by
  have key : ∀ (t : State), Sparse.wf none t.memory.icache = true → (∀ l, t.readLine l = s.readLine l) →
      Sparse.wf none (lines.foldl State.fillLine t).memory.icache = true ∧
      (lines.foldl State.fillLine t).instructionLine line =
        if line ∈ lines then some (s.readLine line) else t.instructionLine line := by
    clear h
    induction lines with
    | nil => intro t ht _; exact ⟨ht, by simp⟩
    | cons x rest ih =>
      intro t ht hr
      obtain ⟨i1, i2⟩ := ih (t.fillLine x) (Sparse.write_wf ht _ _) fun l => (hr l)
      refine ⟨i1, ?_⟩
      simp only [List.foldl_cons, i2, List.mem_cons]
      by_cases hm : line ∈ rest
      · simp [hm]
      · simp only [hm, if_false, or_false]
        have : (t.fillLine x).instructionLine line = if line = x then some (t.readLine x) else t.instructionLine line :=
          Sparse.read_write ht x line _
        rw [this]
        by_cases e : line = x
        · subst e; simp [hr]
        · simp [e]
  exact key s h fun _ => rfl

theorem State.foldl_fillLine_same (s : State) (lines : List Nat) :
    (lines.foldl State.fillLine s).memory.stale = s.memory.stale ∧
      (∀ a, (lines.foldl State.fillLine s).busByte a = s.busByte a) ∧
      (lines.foldl State.fillLine s).platform = s.platform ∧
      (lines.foldl State.fillLine s) = { s with memory := { s.memory with
        icache := (lines.foldl State.fillLine s).memory.icache } } := by
  induction lines generalizing s with
  | nil => exact ⟨rfl, fun _ => rfl, rfl, rfl⟩
  | cons x rest ih =>
    obtain ⟨h1, h2, h3, h4⟩ := ih (s.fillLine x)
    exact ⟨h1, h2, h3, h4⟩

/-- A refill changes the instruction cache and the marks of the stale words, and nothing else. -/
theorem State.fillLines_frame (s : State) (lines : List Nat) :
    s.fillLines lines = { s with memory := { s.memory with
      icache := (s.fillLines lines).memory.icache, stale := (s.fillLines lines).memory.stale } } := by
  have := (s.foldl_fillLine_same lines).2.2.2
  unfold State.fillLines
  rw [this]

theorem State.InstructionCacheOk.fillLines {s : State} (h : s.InstructionCacheOk) (lines : List Nat) :
    (s.fillLines lines).InstructionCacheOk := by
  have hf := s.fillLines_frame lines
  have hbus (a : Nat) : (s.fillLines lines).busWord a = s.busWord a := by rw [hf]; rfl
  have hdev (a : Nat) : (s.fillLines lines).platform.isDevice a = s.platform.isDevice a := by rw [hf]
  have hst : (s.fillLines lines).memory.stale =
      s.memory.stale.map fun e => { e with held := e.held || (!e.synced && lines.contains (e.word / 16)) } := by
    simp only [State.fillLines, (s.foldl_fillLine_same lines).1]
  refine ⟨(State.fillLines_line h.wf lines 0).1, fun line words e k hk hd hs => ?_, fun e he hh hy => ?_⟩
  · rw [(State.fillLines_line h.wf lines line).2] at e
    rw [hdev] at hd
    rw [hbus]
    split at e
    · cases e
      rw [State.readLine_get _ _ _ hk, State.readWord_memory hd]
    · refine h.current line words e k hk hd ((State.isStale_false _ _).2 fun x hx hw => ?_)
      rw [State.isStale_false, hst] at hs
      have := hs _ (List.mem_map.2 ⟨x, hx, rfl⟩) hw
      simp only [StaleWord.visibleCached, Bool.and_eq_true, Bool.not_eq_true', Bool.or_eq_false_iff] at this ⊢
      exact ⟨this.1, this.2.1⟩
  · rw [hst] at he
    obtain ⟨x, hx, rfl⟩ := List.mem_map.1 he
    have hy' : x.synced = false := hy
    have hh' : x.held = false ∧ (x.word / 16) ∉ lines := by simpa [hy'] using hh
    rw [(State.fillLines_line h.wf lines _).2, if_neg hh'.2]
    exact h.marked x hx hh'.1 hy'

/-- What the fetch of an instruction leaves: the instruction cache right, and all but the memory system as it was. -/
theorem State.InstructionCacheOk.fetched {s : State} (h : s.InstructionCacheOk) : s.fetched.InstructionCacheOk := by
  unfold State.fetched
  dsimp only
  split
  · exact h
  · have key : ∀ t : State, t.InstructionCacheOk → ∀ l f, (t.seenByDevices l f).InstructionCacheOk := fun t ht l f =>
      ht.of_same_stale ⟨by simp, by simp⟩ (by simp) (fun _ => by simp) (by simp)
    split
    · exact key _ (h.drain.fillLines _) _ _
    · exact key _ h.drain _ _

/-- What the fetch of an instruction changes: the memory system only, and there no byte of memory and nothing of the
data cache. -/
theorem State.fetched_frame (s : State) : s.fetched = { s with memory := s.fetched.memory } ∧
    (∀ a, s.fetched.busByte a = s.busByte a) ∧ SameDataCache s s.fetched := by
  unfold State.fetched
  dsimp only
  split
  · exact ⟨rfl, fun _ => rfl, rfl, rfl⟩
  · have key : ∀ t : State, t = { s with memory := t.memory } → (∀ a, t.busByte a = s.busByte a) → SameDataCache s t →
        ∀ l f, t.seenByDevices l f = { s with memory := (t.seenByDevices l f).memory } ∧
          (∀ a, (t.seenByDevices l f).busByte a = s.busByte a) ∧ SameDataCache s (t.seenByDevices l f) := by
      intro t ht hb hd l f
      refine ⟨?_, fun a => by simp [hb], by simp [hd.1], by simp [hd.2]⟩
      unfold State.seenByDevices State.recordAccess
      dsimp only
      split <;> rw [ht]
    split
    · refine key _ ?_ (fun a => ?_) ?_ _ _
      · rw [State.fillLines_frame]; rfl
      · rw [State.fillLines_frame]; rfl
      · rw [State.fillLines_frame]; exact ⟨rfl, rfl⟩
    · exact key s.drain rfl (fun _ => rfl) ⟨rfl, rfl⟩ _ _

theorem State.fetched_wf {s : State} (h : Memory.wf s.memory.bytes = true) : Memory.wf s.fetched.memory.bytes = true := by
  unfold State.fetched
  dsimp only
  split
  · exact h
  · rw [State.seenByDevices_bytes]
    split
    · rw [State.fillLines_frame]; exact State.drain_wf h
    · exact State.drain_wf h

/-- A fetch that is allowed, whose block answers without a device and whose word is not stale delivers the word of
memory, be it in the instruction cache or not. -/
theorem State.fetchAt_word {s : State} (h : s.InstructionCacheOk) {pc : Word} (ice : Bool) (ha : unaligned4 pc = false)
    (hu : s.kernelAddressInUserMode pc = false)
    (hb : ∀ b ∈ s.fetchBlock (accessWord pc) (fetchThrough (segmentMap pc) ice), s.platform.readFails b = false)
    (hd : s.platform.isDevice (accessWord pc) = false)
    (hs : s.isStale (accessWord pc) (fetchThrough (segmentMap pc) ice) = false) :
    s.fetchAt pc ice = .word (s.busWord (accessWord pc)) := by
  have h1 : (s.fetchBlock (accessWord pc) (fetchThrough (segmentMap pc) ice)).any s.platform.readFails = false := by
    rw [List.any_eq_false]; intro b hm; simp [hb b hm]
  unfold accessWord at *
  unfold State.fetchAt
  simp only [ha, hu, Bool.or_self, Bool.false_eq_true, if_false]
  cases hf : s.fetchHit (wordAddress (segmentMap pc).pAddr) (fetchThrough (segmentMap pc) ice) with
  | none => simp [h1, hs, State.readWord_memory hd]
  | some w =>
    simp only [hs, Bool.false_eq_true, if_false]
    unfold State.fetchHit at hf
    cases ht : fetchThrough (segmentMap pc) ice with
    | false => simp [ht] at hf
    | true =>
      rw [ht] at hs
      simp only [ht, if_true] at hf
      split at hf
      · cases hf
      · rename_i words e
        split at hf
        · cases hf
        · cases hf
          have he : 16 * (wordAddress (segmentMap pc).pAddr / 16) + 4 * (wordAddress (segmentMap pc).pAddr / 4 % 4) =
              wordAddress (segmentMap pc).pAddr := by unfold wordAddress; omega
          have := h.current _ words e (wordAddress (segmentMap pc).pAddr / 4 % 4) (Nat.mod_lt _ (by decide))
          rw [he] at this
          rw [this hd hs]

end Sys2Proof.Machine
end

