-- ==== Sys2Proof/Laws/PerInstr.lean ====
section
/-! SUPPORT. Statements made of every instruction, one lemma per constructor. -/

namespace Sys2Proof.Laws

/-- The primary opcode, bits 31:26, of an instruction (R169). -/
def primaryOpcode : Instr → BitVec 6
  | .sll _ _ _ => 0b000000#6
  | .srl _ _ _ => 0b000000#6
  | .sra _ _ _ => 0b000000#6
  | .sllv _ _ _ => 0b000000#6
  | .srlv _ _ _ => 0b000000#6
  | .srav _ _ _ => 0b000000#6
  | .jr _ => 0b000000#6
  | .jalr _ _ => 0b000000#6
  | .syscall _ => 0b000000#6
  | .brk _ => 0b000000#6
  | .sdbbp _ => 0b000000#6
  | .sync => 0b000000#6
  | .mfhi _ => 0b000000#6
  | .mthi _ => 0b000000#6
  | .mflo _ => 0b000000#6
  | .mtlo _ => 0b000000#6
  | .mult _ _ _ => 0b000000#6
  | .multu _ _ _ => 0b000000#6
  | .div _ _ => 0b000000#6
  | .divu _ _ => 0b000000#6
  | .add _ _ _ => 0b000000#6
  | .addu _ _ _ => 0b000000#6
  | .sub _ _ _ => 0b000000#6
  | .subu _ _ _ => 0b000000#6
  | .and _ _ _ => 0b000000#6
  | .or _ _ _ => 0b000000#6
  | .xor _ _ _ => 0b000000#6
  | .nor _ _ _ => 0b000000#6
  | .slt _ _ _ => 0b000000#6
  | .sltu _ _ _ => 0b000000#6
  | .bltz _ _ => 0b000001#6
  | .bgez _ _ => 0b000001#6
  | .bltzl _ _ => 0b000001#6
  | .bgezl _ _ => 0b000001#6
  | .bltzal _ _ => 0b000001#6
  | .bgezal _ _ => 0b000001#6
  | .bltzall _ _ => 0b000001#6
  | .bgezall _ _ => 0b000001#6
  | .j _ => 0b000010#6
  | .jal _ => 0b000011#6
  | .beq _ _ _ => 0b000100#6
  | .bne _ _ _ => 0b000101#6
  | .blez _ _ => 0b000110#6
  | .bgtz _ _ => 0b000111#6
  | .addi _ _ _ => 0b001000#6
  | .addiu _ _ _ => 0b001001#6
  | .slti _ _ _ => 0b001010#6
  | .sltiu _ _ _ => 0b001011#6
  | .andi _ _ _ => 0b001100#6
  | .ori _ _ _ => 0b001101#6
  | .xori _ _ _ => 0b001110#6
  | .lui _ _ => 0b001111#6
  | .mfc0 _ _ => 0b010000#6
  | .mfc1 _ _ => 0b010001#6
  | .mfc2 _ _ => 0b010010#6
  | .mfc3 _ _ => 0b010011#6
  | .cfc0 _ _ => 0b010000#6
  | .cfc1 _ _ => 0b010001#6
  | .cfc2 _ _ => 0b010010#6
  | .cfc3 _ _ => 0b010011#6
  | .mtc0 _ _ => 0b010000#6
  | .mtc1 _ _ => 0b010001#6
  | .mtc2 _ _ => 0b010010#6
  | .mtc3 _ _ => 0b010011#6
  | .ctc0 _ _ => 0b010000#6
  | .ctc1 _ _ => 0b010001#6
  | .ctc2 _ _ => 0b010010#6
  | .ctc3 _ _ => 0b010011#6
  | .bc0f _ => 0b010000#6
  | .bc1f _ => 0b010001#6
  | .bc2f _ => 0b010010#6
  | .bc3f _ => 0b010011#6
  | .bc0t _ => 0b010000#6
  | .bc1t _ => 0b010001#6
  | .bc2t _ => 0b010010#6
  | .bc3t _ => 0b010011#6
  | .bc0fl _ => 0b010000#6
  | .bc1fl _ => 0b010001#6
  | .bc2fl _ => 0b010010#6
  | .bc3fl _ => 0b010011#6
  | .bc0tl _ => 0b010000#6
  | .bc1tl _ => 0b010001#6
  | .bc2tl _ => 0b010010#6
  | .bc3tl _ => 0b010011#6
  | .cop1 _ => 0b010001#6
  | .cop2 _ => 0b010010#6
  | .cop3 _ => 0b010011#6
  | .tlbr => 0b010000#6
  | .tlbwi => 0b010000#6
  | .tlbwr => 0b010000#6
  | .tlbp => 0b010000#6
  | .rfe => 0b010000#6
  | .deret => 0b010000#6
  | .beql _ _ _ => 0b010100#6
  | .bnel _ _ _ => 0b010101#6
  | .blezl _ _ => 0b010110#6
  | .bgtzl _ _ => 0b010111#6
  | .madd _ _ _ => 0b011100#6
  | .maddu _ _ _ => 0b011100#6
  | .lb _ _ _ => 0b100000#6
  | .lh _ _ _ => 0b100001#6
  | .lwl _ _ _ => 0b100010#6
  | .lw _ _ _ => 0b100011#6
  | .lbu _ _ _ => 0b100100#6
  | .lhu _ _ _ => 0b100101#6
  | .lwr _ _ _ => 0b100110#6
  | .sb _ _ _ => 0b101000#6
  | .sh _ _ _ => 0b101001#6
  | .swl _ _ _ => 0b101010#6
  | .sw _ _ _ => 0b101011#6
  | .swr _ _ _ => 0b101110#6
  | .cache _ _ _ => 0b101111#6
  | .lwc1 _ _ _ => 0b110001#6
  | .lwc2 _ _ _ => 0b110010#6
  | .lwc3 _ _ _ => 0b110011#6
  | .swc1 _ _ _ => 0b111001#6
  | .swc2 _ _ _ => 0b111010#6
  | .swc3 _ _ _ => 0b111011#6

/-- The word of an instruction carries its primary opcode. -/
def Encoding.Statement (i : Instr) : Prop := opField (encode i) = primaryOpcode i

theorem Encoding.sll (rt : RegIndex) (rd : RegIndex) (sa : BitVec 5) :
    Encoding.Statement (.sll rt rd sa) := opField_joinR _ _ _ _ _ _
theorem Encoding.srl (rt : RegIndex) (rd : RegIndex) (sa : BitVec 5) :
    Encoding.Statement (.srl rt rd sa) := opField_joinR _ _ _ _ _ _
theorem Encoding.sra (rt : RegIndex) (rd : RegIndex) (sa : BitVec 5) :
    Encoding.Statement (.sra rt rd sa) := opField_joinR _ _ _ _ _ _
theorem Encoding.sllv (rs : RegIndex) (rt : RegIndex) (rd : RegIndex) :
    Encoding.Statement (.sllv rs rt rd) := opField_joinR _ _ _ _ _ _
theorem Encoding.srlv (rs : RegIndex) (rt : RegIndex) (rd : RegIndex) :
    Encoding.Statement (.srlv rs rt rd) := opField_joinR _ _ _ _ _ _
theorem Encoding.srav (rs : RegIndex) (rt : RegIndex) (rd : RegIndex) :
    Encoding.Statement (.srav rs rt rd) := opField_joinR _ _ _ _ _ _
theorem Encoding.jr (rs : RegIndex) :
    Encoding.Statement (.jr rs) := opField_joinR _ _ _ _ _ _
theorem Encoding.jalr (rs : RegIndex) (rd : RegIndex) :
    Encoding.Statement (.jalr rs rd) := opField_joinR _ _ _ _ _ _
theorem Encoding.syscall (code : BitVec 20) :
    Encoding.Statement (.syscall code) := opField_joinCode _ _ _
theorem Encoding.brk (code : BitVec 20) :
    Encoding.Statement (.brk code) := opField_joinCode _ _ _
theorem Encoding.sdbbp (code : BitVec 20) :
    Encoding.Statement (.sdbbp code) := opField_joinCode _ _ _
theorem Encoding.sync :
    Encoding.Statement .sync := opField_joinR _ _ _ _ _ _
theorem Encoding.mfhi (rd : RegIndex) :
    Encoding.Statement (.mfhi rd) := opField_joinR _ _ _ _ _ _
theorem Encoding.mthi (rs : RegIndex) :
    Encoding.Statement (.mthi rs) := opField_joinR _ _ _ _ _ _
theorem Encoding.mflo (rd : RegIndex) :
    Encoding.Statement (.mflo rd) := opField_joinR _ _ _ _ _ _
theorem Encoding.mtlo (rs : RegIndex) :
    Encoding.Statement (.mtlo rs) := opField_joinR _ _ _ _ _ _
theorem Encoding.mult (rs : RegIndex) (rt : RegIndex) (rd : RegIndex) :
    Encoding.Statement (.mult rs rt rd) := opField_joinR _ _ _ _ _ _
theorem Encoding.multu (rs : RegIndex) (rt : RegIndex) (rd : RegIndex) :
    Encoding.Statement (.multu rs rt rd) := opField_joinR _ _ _ _ _ _
theorem Encoding.div (rs : RegIndex) (rt : RegIndex) :
    Encoding.Statement (.div rs rt) := opField_joinR _ _ _ _ _ _
theorem Encoding.divu (rs : RegIndex) (rt : RegIndex) :
    Encoding.Statement (.divu rs rt) := opField_joinR _ _ _ _ _ _
theorem Encoding.add (rs : RegIndex) (rt : RegIndex) (rd : RegIndex) :
    Encoding.Statement (.add rs rt rd) := opField_joinR _ _ _ _ _ _
theorem Encoding.addu (rs : RegIndex) (rt : RegIndex) (rd : RegIndex) :
    Encoding.Statement (.addu rs rt rd) := opField_joinR _ _ _ _ _ _
theorem Encoding.sub (rs : RegIndex) (rt : RegIndex) (rd : RegIndex) :
    Encoding.Statement (.sub rs rt rd) := opField_joinR _ _ _ _ _ _
theorem Encoding.subu (rs : RegIndex) (rt : RegIndex) (rd : RegIndex) :
    Encoding.Statement (.subu rs rt rd) := opField_joinR _ _ _ _ _ _
theorem Encoding.and (rs : RegIndex) (rt : RegIndex) (rd : RegIndex) :
    Encoding.Statement (.and rs rt rd) := opField_joinR _ _ _ _ _ _
theorem Encoding.or (rs : RegIndex) (rt : RegIndex) (rd : RegIndex) :
    Encoding.Statement (.or rs rt rd) := opField_joinR _ _ _ _ _ _
theorem Encoding.xor (rs : RegIndex) (rt : RegIndex) (rd : RegIndex) :
    Encoding.Statement (.xor rs rt rd) := opField_joinR _ _ _ _ _ _
theorem Encoding.nor (rs : RegIndex) (rt : RegIndex) (rd : RegIndex) :
    Encoding.Statement (.nor rs rt rd) := opField_joinR _ _ _ _ _ _
theorem Encoding.slt (rs : RegIndex) (rt : RegIndex) (rd : RegIndex) :
    Encoding.Statement (.slt rs rt rd) := opField_joinR _ _ _ _ _ _
theorem Encoding.sltu (rs : RegIndex) (rt : RegIndex) (rd : RegIndex) :
    Encoding.Statement (.sltu rs rt rd) := opField_joinR _ _ _ _ _ _
theorem Encoding.bltz (rs : RegIndex) (offset : BitVec 16) :
    Encoding.Statement (.bltz rs offset) := opField_joinI _ _ _ _
theorem Encoding.bgez (rs : RegIndex) (offset : BitVec 16) :
    Encoding.Statement (.bgez rs offset) := opField_joinI _ _ _ _
theorem Encoding.bltzl (rs : RegIndex) (offset : BitVec 16) :
    Encoding.Statement (.bltzl rs offset) := opField_joinI _ _ _ _
theorem Encoding.bgezl (rs : RegIndex) (offset : BitVec 16) :
    Encoding.Statement (.bgezl rs offset) := opField_joinI _ _ _ _
theorem Encoding.bltzal (rs : RegIndex) (offset : BitVec 16) :
    Encoding.Statement (.bltzal rs offset) := opField_joinI _ _ _ _
theorem Encoding.bgezal (rs : RegIndex) (offset : BitVec 16) :
    Encoding.Statement (.bgezal rs offset) := opField_joinI _ _ _ _
theorem Encoding.bltzall (rs : RegIndex) (offset : BitVec 16) :
    Encoding.Statement (.bltzall rs offset) := opField_joinI _ _ _ _
theorem Encoding.bgezall (rs : RegIndex) (offset : BitVec 16) :
    Encoding.Statement (.bgezall rs offset) := opField_joinI _ _ _ _
theorem Encoding.j (target : BitVec 26) :
    Encoding.Statement (.j target) := opField_joinJ _ _
theorem Encoding.jal (target : BitVec 26) :
    Encoding.Statement (.jal target) := opField_joinJ _ _
theorem Encoding.beq (rs : RegIndex) (rt : RegIndex) (offset : BitVec 16) :
    Encoding.Statement (.beq rs rt offset) := opField_joinI _ _ _ _
theorem Encoding.bne (rs : RegIndex) (rt : RegIndex) (offset : BitVec 16) :
    Encoding.Statement (.bne rs rt offset) := opField_joinI _ _ _ _
theorem Encoding.blez (rs : RegIndex) (offset : BitVec 16) :
    Encoding.Statement (.blez rs offset) := opField_joinI _ _ _ _
theorem Encoding.bgtz (rs : RegIndex) (offset : BitVec 16) :
    Encoding.Statement (.bgtz rs offset) := opField_joinI _ _ _ _
theorem Encoding.addi (rs : RegIndex) (rt : RegIndex) (immediate : BitVec 16) :
    Encoding.Statement (.addi rs rt immediate) := opField_joinI _ _ _ _
theorem Encoding.addiu (rs : RegIndex) (rt : RegIndex) (immediate : BitVec 16) :
    Encoding.Statement (.addiu rs rt immediate) := opField_joinI _ _ _ _
theorem Encoding.slti (rs : RegIndex) (rt : RegIndex) (immediate : BitVec 16) :
    Encoding.Statement (.slti rs rt immediate) := opField_joinI _ _ _ _
theorem Encoding.sltiu (rs : RegIndex) (rt : RegIndex) (immediate : BitVec 16) :
    Encoding.Statement (.sltiu rs rt immediate) := opField_joinI _ _ _ _
theorem Encoding.andi (rs : RegIndex) (rt : RegIndex) (immediate : BitVec 16) :
    Encoding.Statement (.andi rs rt immediate) := opField_joinI _ _ _ _
theorem Encoding.ori (rs : RegIndex) (rt : RegIndex) (immediate : BitVec 16) :
    Encoding.Statement (.ori rs rt immediate) := opField_joinI _ _ _ _
theorem Encoding.xori (rs : RegIndex) (rt : RegIndex) (immediate : BitVec 16) :
    Encoding.Statement (.xori rs rt immediate) := opField_joinI _ _ _ _
theorem Encoding.lui (rt : RegIndex) (immediate : BitVec 16) :
    Encoding.Statement (.lui rt immediate) := opField_joinI _ _ _ _
theorem Encoding.mfc0 (rt : RegIndex) (rd : RegIndex) :
    Encoding.Statement (.mfc0 rt rd) := opField_joinR _ _ _ _ _ _
theorem Encoding.mfc1 (rt : RegIndex) (rd : RegIndex) :
    Encoding.Statement (.mfc1 rt rd) := opField_joinR _ _ _ _ _ _
theorem Encoding.mfc2 (rt : RegIndex) (rd : RegIndex) :
    Encoding.Statement (.mfc2 rt rd) := opField_joinR _ _ _ _ _ _
theorem Encoding.mfc3 (rt : RegIndex) (rd : RegIndex) :
    Encoding.Statement (.mfc3 rt rd) := opField_joinR _ _ _ _ _ _
theorem Encoding.cfc0 (rt : RegIndex) (rd : RegIndex) :
    Encoding.Statement (.cfc0 rt rd) := opField_joinR _ _ _ _ _ _
theorem Encoding.cfc1 (rt : RegIndex) (rd : RegIndex) :
    Encoding.Statement (.cfc1 rt rd) := opField_joinR _ _ _ _ _ _
theorem Encoding.cfc2 (rt : RegIndex) (rd : RegIndex) :
    Encoding.Statement (.cfc2 rt rd) := opField_joinR _ _ _ _ _ _
theorem Encoding.cfc3 (rt : RegIndex) (rd : RegIndex) :
    Encoding.Statement (.cfc3 rt rd) := opField_joinR _ _ _ _ _ _
theorem Encoding.mtc0 (rt : RegIndex) (rd : RegIndex) :
    Encoding.Statement (.mtc0 rt rd) := opField_joinR _ _ _ _ _ _
theorem Encoding.mtc1 (rt : RegIndex) (rd : RegIndex) :
    Encoding.Statement (.mtc1 rt rd) := opField_joinR _ _ _ _ _ _
theorem Encoding.mtc2 (rt : RegIndex) (rd : RegIndex) :
    Encoding.Statement (.mtc2 rt rd) := opField_joinR _ _ _ _ _ _
theorem Encoding.mtc3 (rt : RegIndex) (rd : RegIndex) :
    Encoding.Statement (.mtc3 rt rd) := opField_joinR _ _ _ _ _ _
theorem Encoding.ctc0 (rt : RegIndex) (rd : RegIndex) :
    Encoding.Statement (.ctc0 rt rd) := opField_joinR _ _ _ _ _ _
theorem Encoding.ctc1 (rt : RegIndex) (rd : RegIndex) :
    Encoding.Statement (.ctc1 rt rd) := opField_joinR _ _ _ _ _ _
theorem Encoding.ctc2 (rt : RegIndex) (rd : RegIndex) :
    Encoding.Statement (.ctc2 rt rd) := opField_joinR _ _ _ _ _ _
theorem Encoding.ctc3 (rt : RegIndex) (rd : RegIndex) :
    Encoding.Statement (.ctc3 rt rd) := opField_joinR _ _ _ _ _ _
theorem Encoding.bc0f (offset : BitVec 16) :
    Encoding.Statement (.bc0f offset) := opField_joinI _ _ _ _
theorem Encoding.bc1f (offset : BitVec 16) :
    Encoding.Statement (.bc1f offset) := opField_joinI _ _ _ _
theorem Encoding.bc2f (offset : BitVec 16) :
    Encoding.Statement (.bc2f offset) := opField_joinI _ _ _ _
theorem Encoding.bc3f (offset : BitVec 16) :
    Encoding.Statement (.bc3f offset) := opField_joinI _ _ _ _
theorem Encoding.bc0t (offset : BitVec 16) :
    Encoding.Statement (.bc0t offset) := opField_joinI _ _ _ _
theorem Encoding.bc1t (offset : BitVec 16) :
    Encoding.Statement (.bc1t offset) := opField_joinI _ _ _ _
theorem Encoding.bc2t (offset : BitVec 16) :
    Encoding.Statement (.bc2t offset) := opField_joinI _ _ _ _
theorem Encoding.bc3t (offset : BitVec 16) :
    Encoding.Statement (.bc3t offset) := opField_joinI _ _ _ _
theorem Encoding.bc0fl (offset : BitVec 16) :
    Encoding.Statement (.bc0fl offset) := opField_joinI _ _ _ _
theorem Encoding.bc1fl (offset : BitVec 16) :
    Encoding.Statement (.bc1fl offset) := opField_joinI _ _ _ _
theorem Encoding.bc2fl (offset : BitVec 16) :
    Encoding.Statement (.bc2fl offset) := opField_joinI _ _ _ _
theorem Encoding.bc3fl (offset : BitVec 16) :
    Encoding.Statement (.bc3fl offset) := opField_joinI _ _ _ _
theorem Encoding.bc0tl (offset : BitVec 16) :
    Encoding.Statement (.bc0tl offset) := opField_joinI _ _ _ _
theorem Encoding.bc1tl (offset : BitVec 16) :
    Encoding.Statement (.bc1tl offset) := opField_joinI _ _ _ _
theorem Encoding.bc2tl (offset : BitVec 16) :
    Encoding.Statement (.bc2tl offset) := opField_joinI _ _ _ _
theorem Encoding.bc3tl (offset : BitVec 16) :
    Encoding.Statement (.bc3tl offset) := opField_joinI _ _ _ _
theorem Encoding.cop1 (cofun : BitVec 25) :
    Encoding.Statement (.cop1 cofun) := opField_joinCop _ _
theorem Encoding.cop2 (cofun : BitVec 25) :
    Encoding.Statement (.cop2 cofun) := opField_joinCop _ _
theorem Encoding.cop3 (cofun : BitVec 25) :
    Encoding.Statement (.cop3 cofun) := opField_joinCop _ _
theorem Encoding.tlbr :
    Encoding.Statement .tlbr := opField_joinR _ _ _ _ _ _
theorem Encoding.tlbwi :
    Encoding.Statement .tlbwi := opField_joinR _ _ _ _ _ _
theorem Encoding.tlbwr :
    Encoding.Statement .tlbwr := opField_joinR _ _ _ _ _ _
theorem Encoding.tlbp :
    Encoding.Statement .tlbp := opField_joinR _ _ _ _ _ _
theorem Encoding.rfe :
    Encoding.Statement .rfe := opField_joinR _ _ _ _ _ _
theorem Encoding.deret :
    Encoding.Statement .deret := opField_joinR _ _ _ _ _ _
theorem Encoding.beql (rs : RegIndex) (rt : RegIndex) (offset : BitVec 16) :
    Encoding.Statement (.beql rs rt offset) := opField_joinI _ _ _ _
theorem Encoding.bnel (rs : RegIndex) (rt : RegIndex) (offset : BitVec 16) :
    Encoding.Statement (.bnel rs rt offset) := opField_joinI _ _ _ _
theorem Encoding.blezl (rs : RegIndex) (offset : BitVec 16) :
    Encoding.Statement (.blezl rs offset) := opField_joinI _ _ _ _
theorem Encoding.bgtzl (rs : RegIndex) (offset : BitVec 16) :
    Encoding.Statement (.bgtzl rs offset) := opField_joinI _ _ _ _
theorem Encoding.madd (rs : RegIndex) (rt : RegIndex) (rd : RegIndex) :
    Encoding.Statement (.madd rs rt rd) := opField_joinR _ _ _ _ _ _
theorem Encoding.maddu (rs : RegIndex) (rt : RegIndex) (rd : RegIndex) :
    Encoding.Statement (.maddu rs rt rd) := opField_joinR _ _ _ _ _ _
theorem Encoding.lb (base : RegIndex) (rt : RegIndex) (offset : BitVec 16) :
    Encoding.Statement (.lb base rt offset) := opField_joinI _ _ _ _
theorem Encoding.lh (base : RegIndex) (rt : RegIndex) (offset : BitVec 16) :
    Encoding.Statement (.lh base rt offset) := opField_joinI _ _ _ _
theorem Encoding.lwl (base : RegIndex) (rt : RegIndex) (offset : BitVec 16) :
    Encoding.Statement (.lwl base rt offset) := opField_joinI _ _ _ _
theorem Encoding.lw (base : RegIndex) (rt : RegIndex) (offset : BitVec 16) :
    Encoding.Statement (.lw base rt offset) := opField_joinI _ _ _ _
theorem Encoding.lbu (base : RegIndex) (rt : RegIndex) (offset : BitVec 16) :
    Encoding.Statement (.lbu base rt offset) := opField_joinI _ _ _ _
theorem Encoding.lhu (base : RegIndex) (rt : RegIndex) (offset : BitVec 16) :
    Encoding.Statement (.lhu base rt offset) := opField_joinI _ _ _ _
theorem Encoding.lwr (base : RegIndex) (rt : RegIndex) (offset : BitVec 16) :
    Encoding.Statement (.lwr base rt offset) := opField_joinI _ _ _ _
theorem Encoding.sb (base : RegIndex) (rt : RegIndex) (offset : BitVec 16) :
    Encoding.Statement (.sb base rt offset) := opField_joinI _ _ _ _
theorem Encoding.sh (base : RegIndex) (rt : RegIndex) (offset : BitVec 16) :
    Encoding.Statement (.sh base rt offset) := opField_joinI _ _ _ _
theorem Encoding.swl (base : RegIndex) (rt : RegIndex) (offset : BitVec 16) :
    Encoding.Statement (.swl base rt offset) := opField_joinI _ _ _ _
theorem Encoding.sw (base : RegIndex) (rt : RegIndex) (offset : BitVec 16) :
    Encoding.Statement (.sw base rt offset) := opField_joinI _ _ _ _
theorem Encoding.swr (base : RegIndex) (rt : RegIndex) (offset : BitVec 16) :
    Encoding.Statement (.swr base rt offset) := opField_joinI _ _ _ _
theorem Encoding.cache (base : RegIndex) (op : BitVec 5) (offset : BitVec 16) :
    Encoding.Statement (.cache base op offset) := opField_joinI _ _ _ _
theorem Encoding.lwc1 (base : RegIndex) (rt : RegIndex) (offset : BitVec 16) :
    Encoding.Statement (.lwc1 base rt offset) := opField_joinI _ _ _ _
theorem Encoding.lwc2 (base : RegIndex) (rt : RegIndex) (offset : BitVec 16) :
    Encoding.Statement (.lwc2 base rt offset) := opField_joinI _ _ _ _
theorem Encoding.lwc3 (base : RegIndex) (rt : RegIndex) (offset : BitVec 16) :
    Encoding.Statement (.lwc3 base rt offset) := opField_joinI _ _ _ _
theorem Encoding.swc1 (base : RegIndex) (rt : RegIndex) (offset : BitVec 16) :
    Encoding.Statement (.swc1 base rt offset) := opField_joinI _ _ _ _
theorem Encoding.swc2 (base : RegIndex) (rt : RegIndex) (offset : BitVec 16) :
    Encoding.Statement (.swc2 base rt offset) := opField_joinI _ _ _ _
theorem Encoding.swc3 (base : RegIndex) (rt : RegIndex) (offset : BitVec 16) :
    Encoding.Statement (.swc3 base rt offset) := opField_joinI _ _ _ _

end Sys2Proof.Laws
end

