-- ==== Sys2Proof/WellFormed.lean ====
section
/-! DEFINITION. The well-formedness of an instruction: what the spec forbids a program to write although the word
decodes. Every other combination of field values is an instruction (R166 fixes the "0" fields in the encoding). -/

namespace Sys2Proof

/-- The 5-bit CACHE operations of R392: IndexInvalidate, IndexLRUBitClear, IndexLockBitClear, HitInvalidate. -/
def cacheOpDefined (op : BitVec 5) : Bool :=
  op == 0b00000#5 || op == 0b00101#5 || op == 0b01001#5 || op == 0b10001#5

/-- JALR needs two different registers (R309), CACHE one of its four operations (R392), and CFC0 and CTC0 "are not
valid when issued for CP0" (R357). -/
def Instr.wellFormed : Instr → Bool
  | .jalr rs rd => rs != rd
  | .cache _ op _ => cacheOpDefined op
  | .cfc0 _ _ => false
  | .ctc0 _ _ => false
  | _ => true

end Sys2Proof
end

