-- ==== Sys2Proof/Tests/Slice0.lean ====
section
/-! SUPPORT. Tests on fixed values: the smoke test of well-formedness, one written word for every constructor, single
steps whose expected results come from 95_test_vectors.md or from the rule named, and for every obligation with
hypotheses a state and operands that meet them. -/

namespace Sys2Proof.Tests

set_option Elab.async false

open Sys2Proof.Machine

/-! Well-formedness: each check refuses an ill-formed term. -/

theorem test_wellFormed_jalr_same : Instr.wellFormed (.jalr 7#5 7#5) = false := by decide
theorem test_wellFormed_jalr : Instr.wellFormed (.jalr 7#5 31#5) = true := by decide
theorem test_wellFormed_cache_op : Instr.wellFormed (.cache 3#5 0b00001#5 0#16) = false := by decide
theorem test_wellFormed_cache : Instr.wellFormed (.cache 3#5 0b10001#5 0#16) = true := by decide
theorem test_wellFormed_cfc0 : Instr.wellFormed (.cfc0 1#5 2#5) = false := by decide
theorem test_wellFormed_ctc0 : Instr.wellFormed (.ctc0 1#5 2#5) = false := by decide

/-! Decoding: words written from the encodings of 30_encoding.md, field by field. -/

theorem test_decode_shifts :
    decode 0b000000_00000_01010_00110_10101_000000#32 = .instr (.sll 10#5 6#5 0x15#5) ∧
    decode 0b000000_00000_01010_00110_10101_000010#32 = .instr (.srl 10#5 6#5 0x15#5) ∧
    decode 0b000000_00000_01010_00110_10101_000011#32 = .instr (.sra 10#5 6#5 0x15#5) ∧
    decode 0b000000_10001_01010_00110_00000_000100#32 = .instr (.sllv 17#5 10#5 6#5) ∧
    decode 0b000000_10001_01010_00110_00000_000110#32 = .instr (.srlv 17#5 10#5 6#5) ∧
    decode 0b000000_10001_01010_00110_00000_000111#32 = .instr (.srav 17#5 10#5 6#5) := by decide

theorem test_decode_jumps :
    decode 0b000000_10001_00000_00000_00000_001000#32 = .instr (.jr 17#5) ∧
    decode 0b000000_10001_00000_00110_00000_001001#32 = .instr (.jalr 17#5 6#5) ∧
    decode 0b000010_10101010111100110111100001#32 = .instr (.j 0x2ABCDE1#26) ∧
    decode 0b000011_10101010111100110111100001#32 = .instr (.jal 0x2ABCDE1#26) := by decide

theorem test_decode_special :
    decode 0b000000_11000011010110101001_001100#32 = .instr (.syscall 0xC35A9#20) ∧
    decode 0b000000_11000011010110101001_001101#32 = .instr (.brk 0xC35A9#20) ∧
    decode 0b000000_11000011010110101001_001110#32 = .instr (.sdbbp 0xC35A9#20) ∧
    decode 0b000000_00000_00000_00000_00000_001111#32 = .instr .sync := by decide

theorem test_decode_muldiv :
    decode 0b000000_00000_00000_00110_00000_010000#32 = .instr (.mfhi 6#5) ∧
    decode 0b000000_10001_00000_00000_00000_010001#32 = .instr (.mthi 17#5) ∧
    decode 0b000000_00000_00000_00110_00000_010010#32 = .instr (.mflo 6#5) ∧
    decode 0b000000_10001_00000_00000_00000_010011#32 = .instr (.mtlo 17#5) ∧
    decode 0b000000_10001_01010_00110_00000_011000#32 = .instr (.mult 17#5 10#5 6#5) ∧
    decode 0b000000_10001_01010_00110_00000_011001#32 = .instr (.multu 17#5 10#5 6#5) ∧
    decode 0b000000_10001_01010_00000_00000_011010#32 = .instr (.div 17#5 10#5) ∧
    decode 0b000000_10001_01010_00000_00000_011011#32 = .instr (.divu 17#5 10#5) ∧
    decode 0b011100_10001_01010_00110_00000_000000#32 = .instr (.madd 17#5 10#5 6#5) ∧
    decode 0b011100_10001_01010_00110_00000_000001#32 = .instr (.maddu 17#5 10#5 6#5) := by decide

theorem test_decode_three_operand :
    decode 0b000000_10001_01010_00110_00000_100000#32 = .instr (.add 17#5 10#5 6#5) ∧
    decode 0b000000_10001_01010_00110_00000_100001#32 = .instr (.addu 17#5 10#5 6#5) ∧
    decode 0b000000_10001_01010_00110_00000_100010#32 = .instr (.sub 17#5 10#5 6#5) ∧
    decode 0b000000_10001_01010_00110_00000_100011#32 = .instr (.subu 17#5 10#5 6#5) ∧
    decode 0b000000_10001_01010_00110_00000_100100#32 = .instr (.and 17#5 10#5 6#5) ∧
    decode 0b000000_10001_01010_00110_00000_100101#32 = .instr (.or 17#5 10#5 6#5) ∧
    decode 0b000000_10001_01010_00110_00000_100110#32 = .instr (.xor 17#5 10#5 6#5) ∧
    decode 0b000000_10001_01010_00110_00000_100111#32 = .instr (.nor 17#5 10#5 6#5) ∧
    decode 0b000000_10001_01010_00110_00000_101010#32 = .instr (.slt 17#5 10#5 6#5) ∧
    decode 0b000000_10001_01010_00110_00000_101011#32 = .instr (.sltu 17#5 10#5 6#5) := by decide

theorem test_decode_branches :
    decode 0b000001_10001_00000_1111111011011100#32 = .instr (.bltz 17#5 0xFEDC#16) ∧
    decode 0b000001_10001_00001_1111111011011100#32 = .instr (.bgez 17#5 0xFEDC#16) ∧
    decode 0b000001_10001_00010_1111111011011100#32 = .instr (.bltzl 17#5 0xFEDC#16) ∧
    decode 0b000001_10001_00011_1111111011011100#32 = .instr (.bgezl 17#5 0xFEDC#16) ∧
    decode 0b000001_10001_10000_1111111011011100#32 = .instr (.bltzal 17#5 0xFEDC#16) ∧
    decode 0b000001_10001_10001_1111111011011100#32 = .instr (.bgezal 17#5 0xFEDC#16) ∧
    decode 0b000001_10001_10010_1111111011011100#32 = .instr (.bltzall 17#5 0xFEDC#16) ∧
    decode 0b000001_10001_10011_1111111011011100#32 = .instr (.bgezall 17#5 0xFEDC#16) ∧
    decode 0b000100_10001_01010_1111111011011100#32 = .instr (.beq 17#5 10#5 0xFEDC#16) ∧
    decode 0b000101_10001_01010_1111111011011100#32 = .instr (.bne 17#5 10#5 0xFEDC#16) ∧
    decode 0b000110_10001_00000_1111111011011100#32 = .instr (.blez 17#5 0xFEDC#16) ∧
    decode 0b000111_10001_00000_1111111011011100#32 = .instr (.bgtz 17#5 0xFEDC#16) ∧
    decode 0b010100_10001_01010_1111111011011100#32 = .instr (.beql 17#5 10#5 0xFEDC#16) ∧
    decode 0b010101_10001_01010_1111111011011100#32 = .instr (.bnel 17#5 10#5 0xFEDC#16) ∧
    decode 0b010110_10001_00000_1111111011011100#32 = .instr (.blezl 17#5 0xFEDC#16) ∧
    decode 0b010111_10001_00000_1111111011011100#32 = .instr (.bgtzl 17#5 0xFEDC#16) := by decide

theorem test_decode_immediate :
    decode 0b001000_10001_01010_1000000100100011#32 = .instr (.addi 17#5 10#5 0x8123#16) ∧
    decode 0b001001_10001_01010_1000000100100011#32 = .instr (.addiu 17#5 10#5 0x8123#16) ∧
    decode 0b001010_10001_01010_1000000100100011#32 = .instr (.slti 17#5 10#5 0x8123#16) ∧
    decode 0b001011_10001_01010_1000000100100011#32 = .instr (.sltiu 17#5 10#5 0x8123#16) ∧
    decode 0b001100_10001_01010_1000000100100011#32 = .instr (.andi 17#5 10#5 0x8123#16) ∧
    decode 0b001101_10001_01010_1000000100100011#32 = .instr (.ori 17#5 10#5 0x8123#16) ∧
    decode 0b001110_10001_01010_1000000100100011#32 = .instr (.xori 17#5 10#5 0x8123#16) ∧
    decode 0b001111_00000_01010_1000000100100011#32 = .instr (.lui 10#5 0x8123#16) := by decide

theorem test_decode_cp0 :
    decode 0b010000_00000_01010_00110_00000_000000#32 = .instr (.mfc0 10#5 6#5) ∧
    decode 0b010000_00100_01010_00110_00000_000000#32 = .instr (.mtc0 10#5 6#5) ∧
    decode 0b010000_10000_00000_00000_00000_000001#32 = .instr .tlbr ∧
    decode 0b010000_10000_00000_00000_00000_000010#32 = .instr .tlbwi ∧
    decode 0b010000_10000_00000_00000_00000_000110#32 = .instr .tlbwr ∧
    decode 0b010000_10000_00000_00000_00000_001000#32 = .instr .tlbp ∧
    decode 0b010000_10000_00000_00000_00000_010000#32 = .instr .rfe ∧
    decode 0b010000_10000_00000_00000_00000_011111#32 = .instr .deret ∧
    decode 0b101111_11101_10001_1111111011011100#32 = .instr (.cache 29#5 0x11#5 0xFEDC#16) := by decide

theorem test_decode_cop_moves :
    decode 0b010001_00000_01010_00110_00000_000000#32 = .instr (.mfc1 10#5 6#5) ∧
    decode 0b010010_00000_01010_00110_00000_000000#32 = .instr (.mfc2 10#5 6#5) ∧
    decode 0b010011_00000_01010_00110_00000_000000#32 = .instr (.mfc3 10#5 6#5) ∧
    decode 0b010000_00010_01010_00110_00000_000000#32 = .instr (.cfc0 10#5 6#5) ∧
    decode 0b010001_00010_01010_00110_00000_000000#32 = .instr (.cfc1 10#5 6#5) ∧
    decode 0b010010_00010_01010_00110_00000_000000#32 = .instr (.cfc2 10#5 6#5) ∧
    decode 0b010011_00010_01010_00110_00000_000000#32 = .instr (.cfc3 10#5 6#5) ∧
    decode 0b010001_00100_01010_00110_00000_000000#32 = .instr (.mtc1 10#5 6#5) ∧
    decode 0b010010_00100_01010_00110_00000_000000#32 = .instr (.mtc2 10#5 6#5) ∧
    decode 0b010011_00100_01010_00110_00000_000000#32 = .instr (.mtc3 10#5 6#5) ∧
    decode 0b010000_00110_01010_00110_00000_000000#32 = .instr (.ctc0 10#5 6#5) ∧
    decode 0b010001_00110_01010_00110_00000_000000#32 = .instr (.ctc1 10#5 6#5) ∧
    decode 0b010010_00110_01010_00110_00000_000000#32 = .instr (.ctc2 10#5 6#5) ∧
    decode 0b010011_00110_01010_00110_00000_000000#32 = .instr (.ctc3 10#5 6#5) := by decide

theorem test_decode_cop_branches :
    decode 0b010000_01000_00000_1111111011011100#32 = .instr (.bc0f 0xFEDC#16) ∧
    decode 0b010001_01000_00000_1111111011011100#32 = .instr (.bc1f 0xFEDC#16) ∧
    decode 0b010010_01000_00000_1111111011011100#32 = .instr (.bc2f 0xFEDC#16) ∧
    decode 0b010011_01000_00000_1111111011011100#32 = .instr (.bc3f 0xFEDC#16) ∧
    decode 0b010000_01000_00001_1111111011011100#32 = .instr (.bc0t 0xFEDC#16) ∧
    decode 0b010001_01000_00001_1111111011011100#32 = .instr (.bc1t 0xFEDC#16) ∧
    decode 0b010010_01000_00001_1111111011011100#32 = .instr (.bc2t 0xFEDC#16) ∧
    decode 0b010011_01000_00001_1111111011011100#32 = .instr (.bc3t 0xFEDC#16) ∧
    decode 0b010000_01000_00010_1111111011011100#32 = .instr (.bc0fl 0xFEDC#16) ∧
    decode 0b010001_01000_00010_1111111011011100#32 = .instr (.bc1fl 0xFEDC#16) ∧
    decode 0b010010_01000_00010_1111111011011100#32 = .instr (.bc2fl 0xFEDC#16) ∧
    decode 0b010011_01000_00010_1111111011011100#32 = .instr (.bc3fl 0xFEDC#16) ∧
    decode 0b010000_01000_00011_1111111011011100#32 = .instr (.bc0tl 0xFEDC#16) ∧
    decode 0b010001_01000_00011_1111111011011100#32 = .instr (.bc1tl 0xFEDC#16) ∧
    decode 0b010010_01000_00011_1111111011011100#32 = .instr (.bc2tl 0xFEDC#16) ∧
    decode 0b010011_01000_00011_1111111011011100#32 = .instr (.bc3tl 0xFEDC#16) := by decide

theorem test_decode_cop_operations :
    decode 0b010001_1_1010101010101101010101011#32 = .instr (.cop1 0x1555AAB#25) ∧
    decode 0b010010_1_1010101010101101010101011#32 = .instr (.cop2 0x1555AAB#25) ∧
    decode 0b010011_1_1010101010101101010101011#32 = .instr (.cop3 0x1555AAB#25) := by decide

theorem test_decode_loads :
    decode 0b100000_11101_01010_1111111011011100#32 = .instr (.lb 29#5 10#5 0xFEDC#16) ∧
    decode 0b100001_11101_01010_1111111011011100#32 = .instr (.lh 29#5 10#5 0xFEDC#16) ∧
    decode 0b100010_11101_01010_1111111011011100#32 = .instr (.lwl 29#5 10#5 0xFEDC#16) ∧
    decode 0b100011_11101_01010_1111111011011100#32 = .instr (.lw 29#5 10#5 0xFEDC#16) ∧
    decode 0b100100_11101_01010_1111111011011100#32 = .instr (.lbu 29#5 10#5 0xFEDC#16) ∧
    decode 0b100101_11101_01010_1111111011011100#32 = .instr (.lhu 29#5 10#5 0xFEDC#16) ∧
    decode 0b100110_11101_01010_1111111011011100#32 = .instr (.lwr 29#5 10#5 0xFEDC#16) := by decide

theorem test_decode_stores :
    decode 0b101000_11101_01010_1111111011011100#32 = .instr (.sb 29#5 10#5 0xFEDC#16) ∧
    decode 0b101001_11101_01010_1111111011011100#32 = .instr (.sh 29#5 10#5 0xFEDC#16) ∧
    decode 0b101010_11101_01010_1111111011011100#32 = .instr (.swl 29#5 10#5 0xFEDC#16) ∧
    decode 0b101011_11101_01010_1111111011011100#32 = .instr (.sw 29#5 10#5 0xFEDC#16) ∧
    decode 0b101110_11101_01010_1111111011011100#32 = .instr (.swr 29#5 10#5 0xFEDC#16) := by decide

theorem test_decode_absent_cop_memory :
    decode 0b110001_11101_01010_1111111011011100#32 = .instr (.lwc1 29#5 10#5 0xFEDC#16) ∧
    decode 0b110010_11101_01010_1111111011011100#32 = .instr (.lwc2 29#5 10#5 0xFEDC#16) ∧
    decode 0b110011_11101_01010_1111111011011100#32 = .instr (.lwc3 29#5 10#5 0xFEDC#16) ∧
    decode 0b111001_11101_01010_1111111011011100#32 = .instr (.swc1 29#5 10#5 0xFEDC#16) ∧
    decode 0b111010_11101_01010_1111111011011100#32 = .instr (.swc2 29#5 10#5 0xFEDC#16) ∧
    decode 0b111011_11101_01010_1111111011011100#32 = .instr (.swc3 29#5 10#5 0xFEDC#16) := by decide

/-- Words that are no instruction: a `*` cell, a `γ` cell of BCOND and of COPz, a `φ` word, a non-zero "0" field in
SPECIAL and in COPz (R166, R177 to R180). -/
theorem test_decode_rejected :
    decode 0b011000_00000_00000_0000000000000000#32 = .reserved ∧
    decode 0b000000_00001_00010_00011_00000_101000#32 = .reserved ∧
    decode 0b000001_00001_00100_0000000000000000#32 = .invalid ∧
    decode 0b010001_00001_00000_0000000000000000#32 = .invalid ∧
    decode 0b010000_1_0000000000000000000_000011#32 = .mmuNop ∧
    decode 0b000000_00001_00010_00011_00100_100001#32 = .zeroField ∧
    decode 0b010001_00000_00001_00010_00000000001#32 = .copZeroField 1#2 := by decide

/-- The table's numbering of bits: the word itself, of 32 bits. -/
theorem test_decodeTableWord :
    decodeTableWord 32 0x24A5FFFC = some (.addiu 5#5 5#5 0xFFFC#16) ∧ decodeTableWord 32 0x60000000 = none := by
  decide

/-! Single steps. -/

/-- A state of kernel mode in cached RAM, reset else. -/
def bench : State := { State.reset with pc := 0x80001000#32, nextPc := 0x80001004#32 }

/-- The bench with some registers. -/
def withRegs (s : State) (rs : List (RegIndex × Word)) : State := rs.foldl (fun s r => s.writeReg r.1 r.2) s

/-- The bench with a program word and some registers. -/
def placed (w : Nat) (rs : List (RegIndex × Word)) : State := (withRegs bench rs).withFetchWord 32 w

/-- A step answers a next state with a property. -/
def steps (s : State) (p : State → Bool) : Bool :=
  match step s with
  | .next t => p t
  | _ => false

/-- The word at a physical address replaced, byte by byte from the lowest. -/
def withBytes (s : State) (a : Nat) (bs : List Byte) : State :=
  { s with memory := { s.memory with
      bytes := (bs.zipIdx).foldl (fun m x => Memory.write m (a + x.2) x.1) s.memory.bytes } }

/-- The state in little endian. -/
def little (s : State) : State :=
  { s with platform := { s.platform with product := { s.platform.product with bigEndianMem := false } } }

def withStatus (s : State) (v : Word) : State := { s with cp0 := { s.cp0 with status := v } }
def withConfig (s : State) (v : Word) : State := { s with cp0 := { s.cp0 with config := v } }
def withSchedule (s : State) (l : List PlatformMove) : State := { s with platform := { s.platform with schedule := l } }
def withLines (s : State) (l : BitVec 6) : State := { s with platform := { s.platform with intLines := l } }
def inHandler (s : State) : State := { s with cp0 := { s.cp0 with debugReg := { s.cp0.debugReg with dm := true } } }
def inSlot (s : State) (c : Slot) : State := { s with slot := c }

/-- User mode (KUc = 1), all else of Status zero, at a kuseg address with RAM under all of kuseg. -/
def user : State :=
  { withStatus State.reset 0x00000002#32 with
    pc := 0x00001000#32
    nextPc := 0x00001004#32
    platform := { State.reset.platform with
      product := { defaultProduct with physMap := [{ base := 0, size := 0xC0000000, kind := .ram }] } } }

/-- ADDI r5, r4, 1 at the largest number: Overflow, r5 kept (95_test_vectors.md; R231, R430). -/
theorem test_addi_overflow : steps (placed 0x20850001 [(4#5, 0x7FFFFFFF#32), (5#5, 9#32)]) (fun t =>
    t.pc == 0xBFC00180#32 && t.nextPc == 0xBFC00184#32 && t.reg 5#5 == 9#32 && t.cp0.epc == 0x80001000#32 &&
      t.cp0.status == 0x00400000#32) = true := by decide +kernel

/-- ADDIU wraps (95_test_vectors.md). -/
theorem test_addiu_wraps : steps (placed 0x24850001 [(4#5, 0x7FFFFFFF#32)]) (fun t =>
    t.reg 5#5 == 0x80000000#32 && t.pc == 0x80001004#32) = true := by decide +kernel

/-- SLTIU compares with the sign-extended immediate as an unsigned number (R236). -/
theorem test_sltiu_extends : steps (placed 0x2C858000 [(4#5, 0xFFFF7FFF#32)]) (fun t => t.reg 5#5 == 1#32) = true := by
  decide +kernel

/-- SUB r5, r0, 0x80000000 overflows (R243). -/
theorem test_sub_overflow : steps (placed 0x00862822 [(6#5, 0x80000000#32)]) (fun t =>
    t.pc == 0xBFC00180#32 && t.cp0.epc == 0x80001000#32) = true := by decide +kernel

/-- SRAV takes the low five bits of the count: 36 is 4 (R255). -/
theorem test_srav_count : steps (placed 0x00C42807 [(4#5, 0x80000000#32), (6#5, 36#32)]) (fun t =>
    t.reg 5#5 == 0xF8000000#32) = true := by decide +kernel

/-- MULT writes HI, LO and rd (R271). -/
theorem test_mult : steps (placed 0x00862818 [(4#5, 0x7FFFFFFF#32), (6#5, 0x7FFFFFFF#32)]) (fun t =>
    t.hi == 0x3FFFFFFF#32 && t.lo == 1#32 && t.reg 5#5 == 1#32) = true := by decide +kernel

/-- MADDU carries from LO to HI (R274). -/
theorem test_maddu_carry : steps { placed 0x70860001 [(4#5, 2#32), (6#5, 3#32)] with lo := 0xFFFFFFFE#32 } (fun t =>
    t.hi == 1#32 && t.lo == 4#32) = true := by decide +kernel

/-- DIV of -7 by 2: quotient -3, remainder -1 (95_test_vectors.md). -/
theorem test_div_signs : steps (placed 0x0086001A [(4#5, 0xFFFFFFF9#32), (6#5, 2#32)]) (fun t =>
    t.lo == 0xFFFFFFFD#32 && t.hi == 0xFFFFFFFF#32) = true := by decide +kernel

/-- LWL and LWR at byte 1 of a word in both byte orders (R214). -/
theorem test_lwl_lwr :
    steps (withBytes (placed 0x88850001 [(4#5, 0xA0000100#32), (5#5, 0x11223344#32)]) 0x100
      [0x80#8, 0x91#8, 0xA2#8, 0xB3#8]) (fun t => t.reg 5#5 == 0x91A2B344#32) = true ∧
    steps (withBytes ((little (withRegs bench [(4#5, 0xA0000100#32), (5#5, 0x11223344#32)])).withFetchWord 32 0x98850001)
      0x100 [0x80#8, 0x91#8, 0xA2#8, 0xB3#8]) (fun t => t.reg 5#5 == 0x11B3A291#32) = true := by decide +kernel

/-- LB sign extends, LBU does not (R204, R205). -/
theorem test_lb_lbu :
    steps (withBytes (placed 0x80850000 [(4#5, 0xA0000100#32)]) 0x100 [0x80#8]) (fun t =>
      t.reg 5#5 == 0xFFFFFF80#32) = true ∧
    steps (withBytes (placed 0x90850000 [(4#5, 0xA0000100#32)]) 0x100 [0x80#8]) (fun t =>
      t.reg 5#5 == 0x80#32) = true := by decide +kernel

/-- SH in user mode with RE in big endian memory: the halfword lands at the other half, its bytes exchanged (R101,
R103). -/
theorem test_sh_reversed :
    steps ((withRegs (withStatus user 0x02000002#32) [(4#5, 0x100#32), (5#5, 0x11223344#32)]).withFetchWord 32 0xA4850000)
      (fun t => t.busByte 0x40000102 == 0x33#8 && t.busByte 0x40000103 == 0x44#8 && t.busByte 0x40000100 == 0#8) =
      true := by decide +kernel

/-- SWL at byte 2 in big endian stores the two upper bytes (R215). -/
theorem test_swl : steps (placed 0xA8850002 [(4#5, 0xA0000100#32), (5#5, 0x11223344#32)]) (fun t =>
    t.busWord 0x100 == 0x00001122#32) = true := by decide +kernel

/-- LW at an odd address: AdEL with BadVAddr (R452). -/
theorem test_lw_unaligned : steps (placed 0x8C850001 [(4#5, 0xA0000100#32)]) (fun t =>
    t.pc == 0xBFC00180#32 && t.cp0.badVAddr == 0xA0000101#32) = true := by decide +kernel

/-- BGEZAL links although it is not taken (R318). -/
theorem test_bgezal_links : steps (placed 0x04910004 [(4#5, 0xFFFFFFFF#32)]) (fun t =>
    t.reg 31#5 == 0x80001008#32 && t.pc == 0x80001004#32 && t.nextPc == 0x80001008#32 &&
      t.slot == .branch 0x80001000#32 false) = true := by decide +kernel

/-- BEQL not taken nullifies its delay slot (R303). -/
theorem test_beql_nullifies : steps ((withRegs { bench with pc := 0xA0001000#32, nextPc := 0xA0001004#32 }
    [(4#5, 7#32), (6#5, 8#32)]).withFetchWord 32 0x50860003) (fun t =>
    t.pc == 0xA0001008#32 && t.nextPc == 0xA000100C#32 && t.slot == .none) = true := by decide +kernel

/-- BNE backwards, taken (R302). -/
theorem test_bne_taken : steps (placed 0x1486FFFF [(4#5, 1#32)]) (fun t =>
    t.pc == 0x80001004#32 && t.nextPc == 0x80001000#32) = true := by decide +kernel

/-- A SYSCALL in a delay slot: EPC is the branch (R430). -/
theorem test_syscall_in_slot : steps (inSlot (placed 0x0000000C []) (.branch 0x80000FFC#32 true)) (fun t =>
    t.cp0.epc == 0x80000FFC#32 && t.pc == 0xBFC00180#32 && t.slot == .none) = true := by decide +kernel

/-- SDBBP: the debug vector, DEPC, DM and DBp (R470). -/
theorem test_sdbbp : steps (placed 0x0000000E []) (fun t =>
    t.pc == 0xBFC00200#32 && t.cp0.depc == 0x80001000#32 && t.inDebug && t.cp0.debugReg.dbp) = true := by decide +kernel

/-- MFC1 without CU1: an exception at the instruction, its destination kept (R350, R455). -/
theorem test_mfc1_unusable : steps (placed 0x44051000 [(5#5, 9#32)]) (fun t =>
    t.pc == 0xBFC00180#32 && t.cp0.epc == 0x80001000#32 && t.reg 5#5 == 9#32) = true := by decide +kernel

/-- MTC0 to Status: the writable bits only; a 1 in NmI clears it (R41, R45). -/
theorem test_mtc0_status : steps (withStatus (placed 0x40856000 [(4#5, 0xFFFFFFFF#32), (5#5, 0xFFFFFFFF#32)])
    0x00500000#32) (fun t => t.cp0.status == 0xF240FF3F#32) = true := by decide +kernel

/-- RFE pops the mode stack (R440). -/
theorem test_rfe : steps (withStatus (placed 0x42000010 []) 0x0000001C#32) (fun t => t.cp0.status == 0x17#32) = true := by
  decide +kernel

/-- MFC0 of PRId (R62). -/
theorem test_mfc0_prid : steps (placed 0x40057800 []) (fun t => t.reg 5#5 == 0x2200#32) = true := by decide +kernel

/-- DERET in a handler, and the NOP of its slot (R389). -/
theorem test_deret :
    steps { inHandler (placed 0x4200001F []) with
      cp0 := { (inHandler bench).cp0 with depc := 0x80002000#32 } } (fun t =>
        t.pc == 0x80001004#32 && t.nextPc == 0x80002000#32 && t.inDebug) = true ∧
    steps { inSlot (inHandler (placed 0 [])) (.deret 0x80000FFC#32) with nextPc := 0x80002000#32 } (fun t =>
        t.pc == 0x80002000#32 && t.nextPc == 0x80002004#32 && !t.inDebug) = true := by decide +kernel

/-- The first step from reset fetches at the reset vector (R500). -/
theorem test_reset_step : steps (State.reset.withFetchWord 32 0x3C058000) (fun t =>
    t.reg 5#5 == 0x80000000#32 && t.pc == 0xBFC00004#32) = true := by decide +kernel

/-- A word that an external master writes waits for no SYNC of its own, but for the one of an earlier store of the core
to it (D9). -/
theorem test_externalWrite_keeps_the_wait_for_sync :
    (bench.externalWrite 0x1001 7#8).isStale 0x1000 true = false ∧
    ((bench.addStale 0x1000 0 false).externalWrite 0x1001 7#8).isStale 0x1000 true = true := by decide +kernel

/-- DEPC where a Single Step meets an NmI (D29), and a fetch Address Error (R477). -/
theorem test_debugWithEvent_depc :
    (bench.debugWithEvent true (some .nmi)).cp0.depc = 0xBFC00000#32 ∧
    (bench.debugWithEvent true (some .addressFetch)).cp0.depc = bench.pc := by decide +kernel

/-! The hypotheses of the obligations can be met: for each, states and operands that meet them together, and for each
clause one at a boundary of its range. -/

/-- A data cache set whose way 0 holds the word at physical 0x100. -/
def heldSet (lock : Bool) : Ways :=
  { way0 := { valid := true, lock, tag := 0, data := 0x01020304#32 }, way1 := Line.empty }

/-- A state whose data cache holds the word at physical 0x100 (0x8000_0100 in kseg0). -/
def holding (s : State) (lock : Bool) : State := { s with memory := { s.memory with dcache := [(64, heldSet lock)] } }

/-- The parts of the invariant that a concrete state shows by evaluation. -/
def checks (s : State) : Bool :=
  Memory.wf s.memory.bytes && s.gpr[0] == 0#32 && s.cp0.status &&& ~~~statusBits == 0#32 &&
    s.cp0.cause &&& ~~~causeBits == 0#32 && s.cp0.cache &&& ~~~cacheBits == 0#32 &&
    s.cp0.config &&& ~~~configMask == resetConfig s.platform.product &&& ~~~configMask &&
    !(s.cp0.halt && s.cp0.doze) && decide (s.hidden.hiloReadAge ≤ 2) && s.nextPc == s.pc + 4#32 && s.slot == .none &&
    s.memory.icache == [] && s.memory.stale == []

theorem inv_of_checks {s : State} (h : checks s = true)
    (hd : s.memory.dcache = [] ∨ ∃ lock, s.memory.dcache = [(64, heldSet lock)]) : s.Inv := by
  simp only [checks, Bool.and_eq_true, beq_iff_eq, decide_eq_true_eq, Bool.not_eq_true'] at h
  obtain ⟨⟨⟨⟨⟨⟨⟨⟨⟨⟨⟨h1, h2⟩, h3⟩, h4⟩, h5⟩, h6⟩, h7⟩, h8⟩, h9⟩, h10⟩, h11⟩, h12⟩ := h
  have hi : s.InstructionCacheOk :=
    ⟨by rw [h11]; rfl, fun line words e => (by unfold State.instructionLine at e; rw [h11] at e; cases e),
      fun e he => (by rw [h12] at he; cases he)⟩
  have hsets : Sparse.wf Ways.empty s.memory.dcache = true ∧ ∀ i, (s.readSet i).oneLock = true := by
    unfold State.readSet
    rcases hd with e | ⟨lock, e⟩ <;> rw [e]
    · exact ⟨rfl, fun _ => rfl⟩
    · refine ⟨by cases lock <;> decide, fun i => ?_⟩
      unfold Sparse.read
      split
      · cases lock <;> rfl
      · rfl
  exact ⟨h1, hsets.1, hsets.2, hi, h2, h3, h4, h5, h6, h7, h8, fun _ => h9, fun a t e => by simp [h10] at e,
    fun a e => by simp [h10] at e, fun a e => by simp [h10] at e⟩

theorem test_bench_inv : bench.Inv := inv_of_checks (by decide) (.inl rfl)
theorem test_user_inv : user.Inv := inv_of_checks (by decide) (.inl rfl)
theorem test_holding_inv (lock : Bool) : (holding bench lock).Inv :=
  inv_of_checks (by cases lock <;> decide) (.inr ⟨lock, rfl⟩)

theorem test_hyp_DecodeThenEncode : decode 0x24A5FFFC#32 = .instr (.addiu 5#5 5#5 0xFFFC#16) := by decide

theorem test_hyp_ReservedWordsTrap :
    bench.inDebug = false ∧
    opField 0x60000000#32 = 0b011000#6 ∧ opField 0xFFFFFFFF#32 = 0b111111#6 ∧
    opField 0x00000001#32 = 0b000000#6 ∧ functField 0x00000001#32 = 0b000001#6 ∧
    functField 0x00000014#32 = 0b010100#6 ∧ functField 0x00000017#32 = 0b010111#6 ∧
    functField 0x0000001C#32 = 0b011100#6 ∧ functField 0x0000001F#32 = 0b011111#6 ∧
    functField 0x0000002C#32 = 0b101100#6 ∧ functField 0x0000003F#32 = 0b111111#6 ∧
    opField 0xC4000000#32 = 0b110001#6 ∧ opField 0xEC000000#32 = 0b111011#6 ∧
    opField 0x42000018#32 = 0b010000#6 ∧ (0x42000018#32).getLsbD 25 = true ∧
    functField 0x42000018#32 = 0b011000#6 := by decide

theorem test_hyp_StepKeepsInvariant : bench.Inv ∧ ∃ t, step bench = .next t := ⟨test_bench_inv, _, rfl⟩

/-- What the step statement asks of the fetch, by evaluation. -/
def fetches (s : State) (i : Instr) : Bool :=
  let a := accessWord s.pc
  let through := fetchThrough (segmentMap s.pc) s.hidden.iceSample
  s.platform.schedule == [] && !s.cp0.stopped && !unaligned4 s.pc && !s.kernelAddressInUserMode s.pc &&
    (s.fetchBlock a through).all (fun b => !s.platform.readFails b && !s.platform.isDevice b) && !s.isStale a through &&
    decide (decodeBytes s.platform.product.bigEndianMem
      [s.busByte a, s.busByte (a + 1), s.busByte (a + 2), s.busByte (a + 3)] = some (.instr i))

theorem test_hyp_StepRunsTheDecodedInstruction :
    (fetches (placed 0x24A5FFFC []) (.addiu 5#5 5#5 0xFFFC#16) = true ∧ (placed 0x24A5FFFC []).inDebug = false ∧
      (placed 0x24A5FFFC []).event (placed 0x24A5FFFC []).fetch = none ∧ (placed 0x24A5FFFC []).singleStepDue = false ∧
      (placed 0x24A5FFFC []).slot.isDeret = false ∧ (placed 0x24A5FFFC []).fetch = .word 0x24A5FFFC#32) ∧
    (placed 0x24A5FFFC []).Inv ∧
    (let s := inSlot (inHandler bench) (.deret 0x80000FFC#32)
     fetches s (.sll 0#5 0#5 0#5) = true ∧ s.inDebug = true ∧ s.lateDue s.fetch = false ∧ s.slot.isDeret = true) ∧
    (let s := State.reset
     let through := fetchThrough (segmentMap s.pc) s.hidden.iceSample
     through = false ∧ s.memory.buffer = [] ∧
      (s.fetchBlock (accessWord s.pc) through).all (fun b => !s.platform.isDevice b) = true) :=
  ⟨by decide +kernel, inv_of_checks (by decide +kernel) (.inl rfl), by decide +kernel, by decide +kernel⟩

theorem test_hyp_RegisterZero : (31#5 : RegIndex) ≠ 0#5 ∧ (0#5 : RegIndex) ≠ 31#5 := by decide

/-- The exact results at the two ends of the range, and the first ones outside it. -/
theorem test_hyp_SignedArithmetic :
    let s := withRegs bench [(4#5, 0x7FFFFFFE#32), (5#5, 1#32), (6#5, 0x80000001#32), (7#5, 0x7FFFFFFF#32),
      (8#5, 0x80000000#32)]
    s.inDebug = false ∧
    ((s.reg 4#5).toInt + (1#16).toInt = 2 ^ 31 - 1) ∧ ((s.reg 6#5).toInt + (0xFFFF#16).toInt = -2 ^ 31) ∧
    ((s.reg 4#5).toInt + (s.reg 5#5).toInt = 2 ^ 31 - 1) ∧ ((s.reg 6#5).toInt - (s.reg 5#5).toInt = -2 ^ 31) ∧
    ((s.reg 7#5).toInt + (1#16).toInt = 2 ^ 31) ∧ ((s.reg 8#5).toInt + (0xFFFF#16).toInt = -2 ^ 31 - 1) ∧
    ((s.reg 7#5).toInt + (s.reg 5#5).toInt = 2 ^ 31) ∧ ((s.reg 8#5).toInt - (s.reg 5#5).toInt = -2 ^ 31 - 1) := by
  decide +kernel

/-- An ordinary division, the overflowing one, and a division by zero. -/
theorem test_hyp_DivideResults :
    let s := withRegs bench [(4#5, 0x80000000#32), (5#5, 0xFFFFFFFF#32), (6#5, 1#32)]
    s.hidden.hiloReadAge = 2 ∧ s.reg 5#5 ≠ 0#32 ∧ s.reg 6#5 ≠ 0#32 ∧
    ¬(s.reg 4#5 = 0x80000000#32 ∧ s.reg 6#5 = 0xFFFFFFFF#32) ∧
    (s.reg 4#5 = 0x80000000#32 ∧ s.reg 5#5 = 0xFFFFFFFF#32) ∧ s.reg 7#5 = 0#32 := by decide +kernel

theorem test_hyp_HiLoMoves : bench.hidden.divBusy = false := by decide

/-- Every alignment of a byte access and the two of a halfword access, in the data cache and not. -/
theorem test_hyp_LoadResults :
    ([0#32, 1#32, 2#32, 3#32].all fun k => bench.loadCompletes unaligned1 (0x80000100#32 + k) &&
      (holding bench false).loadCompletes unaligned1 (0x80000100#32 + k) &&
      bench.loadCompletes unaligned1 (0xA0000100#32 + k)) = true ∧
    ([0#32, 2#32].all fun k => bench.loadCompletes unaligned2 (0x80000100#32 + k)) = true ∧
    bench.loadCompletes unaligned4 0x80000100#32 = true ∧ user.loadCompletes unaligned4 0x7FFFFFFC#32 = true := by
  decide +kernel

theorem test_hyp_LoadsReadMemoryBytes :
    let s := withRegs bench [(4#5, 0x80000100#32)]
    s.foundLine (s.reg 4#5 + (3#16).signExtend 32) = none ∧
    s.loadCompletes unaligned1 (s.reg 4#5 + (3#16).signExtend 32) = true ∧
    s.foundLine (s.reg 4#5 + (2#16).signExtend 32) = none ∧
    s.loadCompletes unaligned2 (s.reg 4#5 + (2#16).signExtend 32) = true ∧
    s.foundLine (s.reg 4#5 + (0#16).signExtend 32) = none ∧
    s.loadCompletes unaligned4 (s.reg 4#5 + (0#16).signExtend 32) = true := by decide +kernel

theorem test_hyp_LoadLeftRightTable :
    (∀ k ∈ [0, 1, 2, 3], bench.partialByte (BitVec.ofNat 32 (0x80000103 - k)) = k ∧
      bench.loadCompletes unaligned1 (BitVec.ofNat 32 (0x80000103 - k)) = true) := by decide +kernel

theorem test_hyp_StoreResults :
    Memory.wf bench.memory.bytes = true ∧
    ([0#32, 1#32, 2#32, 3#32].all fun k => bench.storeCompletes unaligned1 (0x80000100#32 + k) &&
      (holding bench false).storeCompletes unaligned1 (0x80000100#32 + k)) = true ∧
    ([0#32, 2#32].all fun k => bench.storeCompletes unaligned2 (0x80000100#32 + k)) = true ∧
    bench.storeCompletes unaligned4 0x80000100#32 = true ∧ user.storeCompletes unaligned4 0x7FFFFFFC#32 = true := by
  decide +kernel

theorem test_hyp_StoreLeftRightTable :
    Memory.wf bench.memory.bytes = true ∧
    (∀ k ∈ [0, 1, 2, 3], bench.partialByte (BitVec.ofNat 32 (0x80000103 - k)) = k ∧
      bench.storeCompletes unaligned1 (BitVec.ofNat 32 (0x80000103 - k)) = true) ∧
    (∀ k ∈ [0, 1, 2, 3], bench.platform.isRam (0x100 + k) = true) := by decide +kernel

/-- Every alignment, the line locked and not. -/
theorem test_hyp_StoresToCachedLine :
    (∀ lock, (holding bench lock).Inv) ∧
    (∀ lock, ([0#32, 1#32, 2#32, 3#32].all fun k =>
      (holding bench lock).accessAllowed unaligned1 (0x80000100#32 + k) &&
        (holding bench lock).foundLine (0x80000100#32 + k) == some (heldSet lock).way0) = true) ∧
    (∀ lock, ([0#32, 2#32].all fun k => (holding bench lock).accessAllowed unaligned2 (0x80000100#32 + k)) = true) ∧
    (∀ lock, (holding bench lock).accessAllowed unaligned4 0x80000100#32 = true) ∧
    ([0, 1, 2, 3].all fun k => bench.platform.isRam (0x100 + k)) = true :=
  ⟨test_holding_inv, by decide +kernel, by decide +kernel, by decide +kernel, by decide +kernel⟩

/-- A state whose whole memory map is one device. -/
def onDevice (s : State) : State :=
  { s with platform := { s.platform with
      product := { defaultProduct with physMap := [{ base := 0, size := 0x20000000, kind := .device 7 }] } } }

/-- The data of a device in kseg1, at every alignment, and its words as instructions. -/
theorem test_hyp_DeviceAccesses :
    let s := onDevice bench
    let f : State := { onDevice bench with pc := 0xA0001000#32, nextPc := 0xA0001004#32 }
    ([0#32, 1#32, 2#32, 3#32].all fun k =>
      !s.throughDataCache (0xA0000100#32 + k) && s.platform.handler (accessWord (0xA0000100#32 + k)) == some 7 &&
        !s.platform.readFails (accessWord (0xA0000100#32 + k)) && s.accessAllowed unaligned1 (0xA0000100#32 + k)) = true ∧
    ([0, 1, 2, 3].all fun k => !s.platform.isRam (accessWord 0xA0000100#32 + k)) = true ∧
    ([0#32, 2#32].all fun k => s.accessAllowed unaligned2 (0xA0000100#32 + k)) = true ∧
    s.accessAllowed unaligned4 0xA0000100#32 = true ∧
    (let a := accessWord f.pc
     let through := fetchThrough (segmentMap f.pc) f.hidden.iceSample
     unaligned4 f.pc = false ∧ f.kernelAddressInUserMode f.pc = false ∧ through = false ∧
      (f.fetchBlock a through).all (fun b => !f.platform.readFails b) = true ∧ f.platform.handler a = some 7 ∧
      f.isStale a through = false) := by decide +kernel

theorem test_hyp_AddressErrors :
    bench.inDebug = false ∧ bench.hidden.windows.afterCp0Write = false ∧ (0x80000101#32).toNat % 2 ≠ 0 ∧
    (0x80000102#32).toNat % 4 ≠ 0 ∧ user.inDebug = false ∧ user.hidden.windows.afterCp0Write = false ∧
    user.userMode = true ∧ 2 ^ 31 ≤ (0x80000000#32).toNat := by decide +kernel

/-- The ends of the segments. -/
theorem test_hyp_SegmentMapping :
    (0x7FFFFFFF#32).toNat < 2 ^ 31 ∧ (0x7EFFFFFF#32).toNat < 0x7F000000 ∧ 0x80000000 ≤ (0x80000000#32).toNat ∧
    (0x9FFFFFFF#32).toNat < 0xA0000000 ∧ 0xA0000000 ≤ (0xA0000000#32).toNat ∧ (0xBFFFFFFF#32).toNat < 0xC0000000 ∧
    0xC0000000 ≤ (0xC0000000#32).toNat ∧ (0xFEFFFFFF#32).toNat < 0xFF000000 := by decide

/-- A word stored to that the instruction cache does not hold, not yet visible; and one that is. -/
theorem test_hyp_SyncDrainsTheWriteBuffer :
    let e : StaleWord := { word := 0x100, block := 0, synced := false, jumped := false, left := false, held := false }
    let s : State := { bench with memory := { bench.memory with stale := [e] } }
    (s.memory.stale.all fun x => x.word != 0x100 || !x.held) = true ∧ s.isStale 0x100 true = true ∧
    s.isStale 0x104 true = false ∧ s.isStale 0x104 false = false := by decide +kernel

theorem test_hyp_JumpResults : bench.slot = .none ∧ (4#5 : RegIndex) ≠ 31#5 ∧ (31#5 : RegIndex) = 31#5 := by decide

/-- Registers for which each branch condition holds, and for which it does not. -/
theorem test_hyp_BranchResults :
    let s := withRegs bench [(4#5, 0xFFFFFFFF#32), (6#5, 1#32)]
    s.slot = .none ∧ s.reg 4#5 ≠ s.reg 6#5 ∧ (s.reg 4#5).toInt < 0 ∧ (s.reg 0#5).toInt = 0 ∧ 0 < (s.reg 6#5).toInt := by
  decide +kernel

theorem test_hyp_LikelyBranchResults : bench.slot = .none ∧ bench.slotIsPlain = true := by decide +kernel

/-- All coprocessors usable; attached or not. -/
def usingCops (present : BitVec 4) : State :=
  let s := withStatus bench 0xF0000000#32
  { s with platform := { s.platform with product := { s.platform.product with cpPresent := present } } }

/-- In a delay slot; and, before JR r31, a register for each likely branch not to be taken, and conditions likewise. -/
theorem test_hyp_JumpInDelaySlotIsRefused :
    (inSlot bench (.branch 0x80000FFC#32 true)).slot ≠ .none ∧ Instr.isJump (.bc3tl 0#16) = true ∧
    (let s := withRegs (withBytes (usingCops 0#4) 0x1004 [0x03#8, 0xE0#8, 0x00#8, 0x08#8])
      [(4#5, 1#32), (5#5, 0xFFFFFFFF#32)]
     let t : State := { s with hidden := { s.hidden with cocPrev := 0b1111#4 } }
     s.slot = .none ∧ s.fetchSlot = .word 0x03E00008#32 ∧ t.fetchSlot = .word 0x03E00008#32 ∧
      Decoded.isJump (decode 0x03E00008#32) = true ∧ s.reg 4#5 ≠ s.reg 0#5 ∧ s.reg 6#5 = s.reg 0#5 ∧
      0 < (s.reg 4#5).toInt ∧ (s.reg 0#5).toInt = 0 ∧ (s.reg 5#5).toInt < 0 ∧
      ([0#2, 1#2, 2#2, 3#2].all fun z => s.usable z && t.usable z && !s.hidden.cocPrev.getLsbD z.toNat &&
        t.hidden.cocPrev.getLsbD z.toNat) = true) := by decide +kernel

theorem test_hyp_TrapInstructions : bench.inDebug = false := by decide

theorem test_hyp_SdbbpEntersDebug :
    bench.inDebug = false ∧ bench.slot = .none ∧ (inSlot bench (.branch 0x80000FFC#32 true)).inDebug = false ∧
    (inSlot bench (.branch 0x80000FFC#32 true)).slot = .branch 0x80000FFC#32 true := by decide

theorem test_hyp_UndefinedUsesAreRefused :
    ({ bench.hidden with hiloReadAge := 1 } : Hidden).hiloReadAge < 2 ∧ (inHandler bench).inDebug = true ∧
    bench.usable 0#2 = true ∧ bench.hidden.windows.afterCp0Write = false ∧
    bench.kernelAddressInUserMode 0xA0000000#32 = false ∧ (segmentMap 0xA0000000#32).cacheable = false ∧
    bench.kernelAddressInUserMode 0x9FFFFFFF#32 = false ∧ (segmentMap 0x9FFFFFFF#32).cacheable = true ∧
    (0b00001#5 : BitVec 5) ∉ [0b00000#5, 0b00101#5, 0b01001#5, 0b10001#5] ∧ bench.cp0.ice = true := by decide +kernel

/-- A state right after an MTC0, or a move, of Status. -/
def afterMove (s : State) : State :=
  { s with hidden := { s.hidden with
      windows := { s.hidden.windows with afterCp0Write := true, afterStatusMove := true } } }

/-- Also, in a debug handler: sums and differences out of range, a misaligned address, a reserved word, and coprocessors
that are not usable. -/
theorem test_hyp_HazardsAreRefused :
    let u := withStatus user 0x10000002#32
    let d := withRegs (inHandler bench) [(4#5, 0x7FFFFFFF#32), (5#5, 0xFFFFFFFF#32)]
    (afterMove bench).usable 0#2 = true ∧ (afterMove bench).hidden.windows.afterStatusMove = true ∧
    (afterMove bench).hidden.windows.afterCp0Write = true ∧
    (withStatus bench 1#32).usable 0#2 = true ∧ (withStatus bench 1#32).hidden.windows.afterStatusMove = false ∧
    (withStatus bench 1#32).cp0.iec = true ∧
    u.usable 0#2 = true ∧ u.hidden.windows.afterCp0Write = false ∧ u.userMode = true ∧
    (0x80000000#32).getLsbD 31 = true ∧
    bench.usable 0#2 = true ∧ bench.slot = .none ∧ bench.inDebug = false ∧ d.inDebug = true ∧
    (d.reg 4#5).toInt + (1#16).toInt = 2 ^ 31 ∧ (d.reg 4#5).toInt + (d.reg 4#5).toInt ≥ 2 ^ 31 ∧
    (d.reg 4#5).toInt - (d.reg 5#5).toInt = 2 ^ 31 ∧ d.hidden.windows.afterCp0Write = false ∧
    (d.reg 4#5 + (2#16).signExtend 32).toNat % 2 ≠ 0 ∧ (d.reg 4#5 + (3#16).signExtend 32).toNat % 4 ≠ 0 ∧
    decode 0x60000000#32 = .reserved ∧ decode 0x42000018#32 = .reservedCp0 ∧
    coprocessorOf (.bc1t 0#16) = some 1#2 ∧ d.usable 1#2 = false ∧ d.slot = .none ∧
    d.platform.schedule = [] ∧ d.cp0.stopped = false ∧ d.hidden.late = [] ∧
    (let m : State := { d with pc := 0x80001002#32 }
     let k : State := { d with pc := 0xC0001000#32 }
     m.inDebug = true ∧ m.pc.toNat % 4 ≠ 0 ∧ k.inDebug = true ∧ k.pc.toNat % 4 = 0 ∧
      k.instructionLine (accessWord k.pc / 16) = none ∧
      (k.fetchBlock (accessWord k.pc) (fetchThrough (segmentMap k.pc) k.hidden.iceSample)).any
        k.platform.readFails = true) := by decide +kernel

/-- One word for each clause; the stops of a fetch in a handler, and outside one at a stale word. -/
theorem test_hyp_RefusedWordsAndFetches :
    (decode 0x04040000#32 = .invalid ∧ decode 0x041F0000#32 = .invalid ∧ decode 0x4C200000#32 = .invalid ∧
      decode 0x41E00000#32 = .invalid ∧ decode 0x41040000#32 = .invalid ∧ decode 0x4D1F0000#32 = .invalid ∧
      decode 0x70000002#32 = .invalid ∧ decode 0x7000003F#32 = .invalid) ∧
    (decode 0x00200000#32 = .zeroField ∧ decode 0x0000006B#32 = .zeroField ∧ decode 0x00010008#32 = .zeroField ∧
      decode 0x00000049#32 = .zeroField ∧ decode 0x0200000F#32 = .zeroField ∧ decode 0x00000052#32 = .zeroField ∧
      decode 0x0000081B#32 = .zeroField ∧ decode 0x18010000#32 = .zeroField ∧ decode 0x3C200000#32 = .zeroField ∧
      decode 0x70000041#32 = .zeroField ∧ decode 0x4CC00001#32 = .copZeroField 3#2 ∧
      decode 0x42000050#32 = .copZeroField 0#2) ∧
    (bench.usable 0#2 = true ∧ bench.usable 3#2 = false ∧ bench.inDebug = false) ∧
    (let d := inSlot (inHandler (placed 0x24A5FFFC [])) (.deret 0x80000FFC#32)
     d.platform.schedule = [] ∧ d.cp0.stopped = false ∧ d.inDebug = true ∧ d.lateDue d.fetch = false ∧
      d.slot.isDeret = true ∧ d.fetch = .word 0x24A5FFFC#32) ∧
    (let st : State := { bench with memory := { bench.memory with
      stale := [{ word := 0x1000, block := 0, synced := false, jumped := false, left := false, held := false }] } }
     st.platform.schedule = [] ∧ st.cp0.stopped = false ∧ st.inDebug = false ∧ st.event st.fetch = none ∧
      st.singleStepDue = false ∧ st.fetch = .stale) := by decide +kernel

theorem test_hyp_CoprocessorUnusableTraps :
    coprocessorOf (.rfe) = some 0#2 ∧ user.usable 0#2 = false ∧ user.inDebug = false ∧
    coprocessorOf (.bc3tl 0#16) = some 3#2 ∧ bench.usable 3#2 = false ∧ bench.inDebug = false ∧ bench.slot = .none ∧
    coprocessorOf (.cop1 0#25) = some 1#2 ∧ bench.usable 1#2 = false ∧
    coprocessorOf (.mfc2 5#5 6#5) = some 2#2 ∧ bench.usable 2#2 = false := by decide +kernel

theorem test_hyp_CoprocessorMoves :
    ([1#2, 2#2, 3#2].all fun z => (usingCops 0b1110#4).usable z && (usingCops 0b1110#4).platform.present z &&
      (usingCops 0#4).usable z && !(usingCops 0#4).platform.present z) = true := by decide +kernel

theorem test_hyp_CoprocessorOperations :
    ([1#2, 2#2, 3#2].all fun z => (usingCops 0b1110#4).usable z && (usingCops 0b1110#4).platform.present z &&
      (usingCops 0#4).usable z && !(usingCops 0#4).platform.present z) = true := by decide +kernel

/-- With the sampled conditions 0 and 2 true and 1 and 3 false. -/
theorem test_hyp_CoprocessorBranches :
    (∃ t, exec (.addiu 5#5 5#5 1#16) bench = .next t) ∧
    let s : State := { usingCops 0#4 with hidden := { bench.hidden with cocPrev := 0b0101#4 } }
    s.slot = .none ∧ s.slotIsPlain = true ∧ (∀ z ∈ [0#2, 1#2, 2#2, 3#2], s.usable z = true) ∧
    s.hidden.cocPrev.getLsbD 0 = true ∧ ¬s.hidden.cocPrev.getLsbD 1 = true ∧ s.hidden.cocPrev.getLsbD 2 = true ∧
    ¬s.hidden.cocPrev.getLsbD 3 = true :=
  ⟨⟨_, rfl⟩, by decide +kernel⟩

theorem test_hyp_ProcessorId : bench.usable 0#2 = true ∧ (bench.cp0.halt && bench.cp0.doze) = false := by decide +kernel

theorem test_hyp_MoveFromCp0 :
    bench.usable 0#2 = true ∧ bench.platform.product.debugPositions = defaultDebugPositions ∧
    (∀ rd ∈ [0#5, 6#5, 11#5, 18#5, 31#5],
      rd ∉ [3#5, 7#5, 8#5, 12#5, 13#5, 14#5, 15#5, 16#5, 17#5]) := by decide +kernel

/-- A written Config with Halt, with Doze, with both, and one written while Lock is set. -/
theorem test_hyp_MoveToCp0 :
    let written (v : Word) : Word := (bench.settledCp0.config &&& ~~~0x00000FFF#32) ||| (v &&& 0x00000FFF#32)
    bench.usable 0#2 = true ∧ (bench.cp0.halt && bench.cp0.doze) = false ∧
    (written 0x100#32).getLsbD 9 = false ∧ (written 0x200#32).getLsbD 8 = false ∧
    ((written 0x300#32).getLsbD 8 = true ∧ (written 0x300#32).getLsbD 9 = true) ∧
    ((withConfig bench 0xB0#32).cp0.config.getLsbD 7 = true ∧ (withConfig bench 0xB0#32).usable 0#2 = true) ∧
    (∀ rd ∈ [0#5, 8#5, 14#5, 15#5, 31#5], rd ∉ [3#5, 7#5, 12#5, 13#5, 16#5, 17#5]) := by decide +kernel

theorem test_hyp_ReturnFromException :
    bench.usable 0#2 = true ∧ bench.hidden.windows.afterStatusMove = false ∧ bench.cp0.iec = false := by decide +kernel

theorem test_hyp_ReturnFromDebug :
    (inHandler bench).inDebug = true ∧ (inHandler bench).slot = .none ∧
    (inSlot (inHandler bench) (.deret 0x80000FFC#32)).inDebug = true ∧
    (inSlot (inHandler bench) (.deret 0x80000FFC#32)).slot = .deret 0x80000FFC#32 ∧
    bench.slot.isDeret = false ∧ ∃ t, exec (.addiu 5#5 5#5 1#16) bench = .next t :=
  ⟨by decide, by decide, by decide, by decide, rfl, _, rfl⟩

theorem test_hyp_CacheOperations :
    let off : State := { withConfig bench 0x10#32 with hidden := { bench.hidden with iceSample := false } }
    off.Inv ∧ off.usable 0#2 = true ∧ off.hidden.windows.afterCp0Write = false ∧
    off.kernelAddressInUserMode 0x80000100#32 = false ∧ (segmentMap 0x80000100#32).cacheable = true ∧
    off.cp0.ice = false ∧ off.hidden.iceSample = false ∧ (holding bench true).Inv ∧
    ((holding bench true).readSet 64).way0.valid = true ∧
    ((holding bench true).readSet 64).way0.tag = (holding bench true).tagOf (accessWord 0x80000100#32) ∧
    (let e : StaleWord := { word := 0x100, block := 0, synced := true, jumped := false, left := false, held := true }
     let s : State := { off with memory := { off.memory with stale := [e] } }
     s.icacheIndex 0x100 = s.icacheIndex (accessWord 0x80000100#32) ∧
      (s.memory.stale.all fun x => x.word != 0x100 || x.synced) = true ∧ s.isStale 0x100 true = true) :=
  ⟨inv_of_checks (by decide) (.inl rfl), by decide +kernel, by decide +kernel, by decide +kernel, by decide +kernel,
    by decide +kernel, by decide +kernel, test_holding_inv true, by decide +kernel, by decide +kernel, by decide +kernel⟩

theorem test_hyp_MmuWordsDoNothing :
    bench.usable 0#2 = true ∧ user.usable 0#2 = false ∧ user.inDebug = false := by decide +kernel

theorem test_hyp_UnnamedMmuWords :
    opField 0x42000000#32 = 0b010000#6 ∧ (0x42000000#32).getLsbD 25 = true ∧
    (functField 0x42000000#32 ∉
      [0b000001#6, 0b000010#6, 0b000110#6, 0b001000#6, 0b010000#6, 0b011111#6, 0b011000#6]) ∧
    bench.usable 0#2 = true ∧ user.usable 0#2 = false ∧ user.inDebug = false := by decide +kernel

theorem test_hyp_ExceptionEntry :
    Exception.syscall ≠ .busErrorFetch ∧ Exception.syscall ≠ .busErrorData false ∧ bench.slot = .none ∧
    (inSlot bench (.branch 0x80000FFC#32 false)).slot = .branch 0x80000FFC#32 false ∧
    (∀ v, Exception.syscall ≠ .addressLoad v ∧ Exception.syscall ≠ .addressStore v) ∧
    bench.hidden.windows.bev1 = false :=
  ⟨by decide, by decide, rfl, rfl, fun _ => ⟨by simp, by simp⟩, rfl⟩

/-- In the write window of BEV a fetch Bus Error has the vector of the new bit. -/
theorem test_hyp_ExceptionEntry_window :
    let b := withStatus bench 0#32
    let s : State := { b with hidden := { b.hidden with windows := { b.hidden.windows with bev1 := true } } }
    s.hidden.windows.bev1 = true ∧ s.cp0.status.getLsbD 22 = false ∧
    (s.boundaryEntry .busErrorFetch).pc = 0x80000080#32 := by decide +kernel

/-- Interrupts enabled, with the lowest and with the highest request. -/
theorem test_hyp_InterruptIsTaken :
    let s := withLines (withStatus bench 0x00008001#32) 0b100000#6
    let soft : State := { withStatus bench 0x00000101#32 with cp0 :=
      { (withStatus bench 0x00000101#32).cp0 with cause := 0x100#32 } }
    s.platform.schedule = [] ∧ s.cp0.stopped = false ∧ s.inDebug = false ∧ s.singleStepDue = false ∧
    s.hidden.late = [] ∧ s.hidden.nmiPending = false ∧ s.hidden.windows.irq1 = none ∧ s.fetch = .word 0#32 ∧
    Decoded.raises s (decode 0#32) = false ∧ Decoded.isSdbbp (decode 0#32) = false ∧ s.cp0.status.getLsbD 0 = true ∧
    ((s.platform.intLines ++ s.cp0.cause.extractLsb' 8 2) &&& s.cp0.status.extractLsb' 8 8) = 0b10000000#8 ∧
    ((soft.platform.intLines ++ soft.cp0.cause.extractLsb' 8 2) &&& soft.cp0.status.extractLsb' 8 8) = 1#8 ∧
    bench.cp0.status.getLsbD 0 = false := by decide +kernel

theorem test_hyp_NmiIsTaken :
    let s : State := { bench with hidden := { bench.hidden with nmiPending := true } }
    s.platform.schedule = [] ∧ s.cp0.stopped = false ∧ s.inDebug = false ∧ s.singleStepDue = false ∧
    s.hidden.late = [] ∧ s.hidden.nmiPending = true ∧ s.fetch = .word 0#32 ∧
    Decoded.isSdbbp (decode 0#32) = false ∧ s.slot = .none := by decide +kernel

theorem test_hyp_SingleStepIsTaken :
    let s : State := { bench with cp0 := { bench.cp0 with debugReg := { bench.cp0.debugReg with sst := true } } }
    s.platform.schedule = [] ∧ s.cp0.stopped = false ∧ s.inDebug = false ∧ s.cp0.debugReg.sst = true ∧ s.slot = .none ∧
    s.hidden.ssSuppressed = false ∧ s.event s.fetch = none := by decide +kernel

/-- An NmI, an interrupt and a fetch Address Error beside a Single Step; an NmI beside SDBBP, in a delay slot and not; a fetch Bus Error
beside a Single Step. -/
theorem test_hyp_DebugMeetsEvent :
    let stepping (s : State) : State :=
      { s with cp0 := { s.cp0 with debugReg := { s.cp0.debugReg with sst := true } } }
    let latched (s : State) : State := { s with hidden := { s.hidden with nmiPending := true } }
    let ready (s : State) (e : Event) : Bool :=
      s.platform.schedule == [] && !s.cp0.stopped && !s.inDebug && s.event s.fetch == some e
    let lost : State := { bench with pc := 0xC0000000#32, nextPc := 0xC0000004#32 }
    let odd : State := stepping { bench with pc := 0x80001002#32, nextPc := 0x80001006#32 }
    let a := latched (stepping bench)
    let b := stepping (withLines (withStatus bench 0x00008001#32) 0b100000#6)
    let c := latched (placed 0x0000000E [])
    let d := latched (inSlot (placed 0x0000000E []) (.branch 0x80000FFC#32 true))
    ready a .nmi = true ∧ a.singleStepDue = true ∧ ready b .interrupt = true ∧ b.singleStepDue = true ∧
    ready odd .addressFetch = true ∧ odd.singleStepDue = true ∧
    ready (stepping lost) .busErrorFetch = true ∧ (stepping lost).singleStepDue = true ∧
    ready c .nmi = true ∧ c.singleStepDue = false ∧ c.fetch = .word 0x0000000E#32 ∧
    Decoded.isSdbbp (decode 0x0000000E#32) = true ∧ c.slot = .none ∧
    ready d .nmi = true ∧ d.singleStepDue = false ∧ d.fetch = .word 0x0000000E#32 ∧
    d.slot = .branch 0x80000FFC#32 true := by decide +kernel

/-- A misaligned pc, a kernel pc in user mode; a fetch from an address where nothing responds, uncached, and cached in a
line that was never filled. -/
theorem test_hyp_FetchExceptions :
    let s : State := { bench with pc := 0x80001001#32, nextPc := 0x80001005#32 }
    let u : State := { user with pc := 0x80000000#32, nextPc := 0x80000004#32 }
    let quiet (s : State) : Bool :=
      s.platform.schedule == [] && !s.cp0.stopped && !s.inDebug && !s.singleStepDue && s.hidden.late.isEmpty &&
        !s.hidden.nmiPending
    let fails (s : State) (cached : Bool) : Bool :=
      let a := accessWord s.pc
      let through := fetchThrough (segmentMap s.pc) s.hidden.iceSample
      quiet s && s.pc.toNat % 4 == 0 && !s.kernelAddressInUserMode s.pc && through == cached &&
        s.instructionLine (a / 16) == none && (s.fetchBlock a through).any s.platform.readFails
    quiet s = true ∧ s.pc.toNat % 4 ≠ 0 ∧ quiet u = true ∧ u.userMode = true ∧ 2 ^ 31 ≤ u.pc.toNat ∧
    fails { bench with pc := 0xFF000000#32 } false = true ∧ fails { bench with pc := 0xC0000000#32 } true = true := by
  decide +kernel

/-- A load from the unmapped physical 0x4000_0000, at kuseg address 0, in a debug handler and not; and a SYNC right after
a failed load. -/
theorem test_hyp_LateBusError :
    let late : LateError := { rt := 5#5, single := true, fresh := true }
    let s : State := { placed 0x0000000F [] with hidden := { bench.hidden with late := [late] } }
    ([bench, inHandler bench].all fun b => b.accessAllowed unaligned1 0#32 && b.accessAllowed unaligned2 0#32 &&
      b.accessAllowed unaligned4 0#32 && b.foundLine 0#32 == none &&
      (b.readTransaction 0#32).any b.platform.readFails) = true ∧
    bench.inDebug = false ∧ (inHandler bench).inDebug = true ∧
    s.platform.schedule = [] ∧ s.cp0.stopped = false ∧ s.inDebug = false ∧ s.singleStepDue = false ∧
    s.hidden.late = [late] ∧ late.fresh = true ∧ s.fetch = .word 0x0000000F#32 ∧
    decode 0x0000000F#32 = .instr .sync ∧ s.slot = .none := by decide +kernel

/-- Each move, and for the bus write an empty buffer and one that holds a write over two addresses, twice to one. -/
theorem test_hyp_StoppedCoreAndPlatformMoves :
    let moves : List PlatformMove := [.setInterruptLines 1#6, .setConditions 1#4, .setBusErrors [0], .busWrite, .core]
    let buffered : State := { bench with memory := { bench.memory with buffer := [[(0x100, 1#8), (0x101, 2#8), (0x100, 3#8)]] } }
    ((withConfig bench 0x130#32).platform.schedule = [] ∧ (withConfig bench 0x130#32).cp0.config.getLsbD 8 = true ∧
      (withConfig bench 0x230#32).cp0.config.getLsbD 9 = true ∧ (withConfig bench 0x130#32).platform.intLines = 0#6 ∧
      (withLines (withConfig bench 0x1B0#32) 1#6).platform.intLines ≠ 0#6 ∧
      (withSchedule bench [.nmiEdge, .core]).platform.schedule = [.nmiEdge, .core] ∧
      (∀ m ∈ moves, (withSchedule bench (m :: moves)).platform.schedule = m :: moves) ∧
      (withSchedule bench [.busWrite]).memory.buffer = [] ∧
      (withSchedule buffered [.busWrite]).memory.buffer = [(0x100, 1#8), (0x101, 2#8), (0x100, 3#8)] :: [] ∧
      (withSchedule buffered [.busWrite]).platform.schedule = [.busWrite]) ∧
    (withSchedule buffered [.busWrite]).Inv :=
  ⟨by decide, inv_of_checks (by decide) (.inl rfl)⟩

theorem test_hyp_ResetMove : (withSchedule bench [.reset false]).platform.schedule = [.reset false] := by decide

/-- A locked line, an unlocked one, none, and Halt. -/
theorem test_hyp_ExternalWriteIsSnooped :
    let s (lock : Bool) : State := withSchedule (holding bench lock) [.externalWrite 0x103 7#8]
    0x1FBFFFFF < 2 ^ 32 ∧ (∀ lock, (s lock).Inv) ∧ (∀ lock, (s lock).platform.schedule = [.externalWrite 0x103 7#8]) ∧
    bench.platform.isRam 0x103 = true ∧ bench.platform.isRam 0 = true ∧ bench.platform.isRam 0x1FBFFFFF = true ∧
    (∀ lock, (s lock).cp0.halt = false ∧ (s lock).hitWay (0x103 / 4 * 4) = some false) ∧
    (∀ lock, (((s lock).readSet ((s lock).setIndex (0x103 / 4 * 4))).way false).lock = lock) ∧
    bench.hitWay (0x103 / 4 * 4) = none ∧ (withConfig bench 0x130#32).cp0.halt = true :=
  ⟨by decide, fun lock => inv_of_checks (by cases lock <;> decide) (.inr ⟨lock, rfl⟩), by decide, by decide +kernel,
    by decide +kernel, by decide +kernel, by decide +kernel, by decide +kernel, by decide +kernel, by decide⟩

theorem test_hyp_UserModeKeepsCp0 : user.userMode = true ∧ user.usable 0#2 = false ∧
    (∃ t, exec (.addu 4#5 5#5 6#5) user = .next t) ∧ ∃ t, exec (.syscall 0#20) user = .next t :=
  ⟨by decide +kernel, by decide +kernel, ⟨_, rfl⟩, ⟨_, rfl⟩⟩

theorem test_hyp_UserModeStoresStayInKuseg : user.Inv ∧ user.userMode = true ∧
    (∃ t, exec (.sw 0#5 5#5 0#16) user = .next t) ∧ 0x3FFFFFFF < 2 ^ 30 ∧ 3 * 2 ^ 30 ≤ 0xC0000000 :=
  ⟨test_user_inv, by decide +kernel, ⟨_, rfl⟩, by decide, by decide⟩

end Sys2Proof.Tests
end

section
/-! The general registers and PRId (10_state.md): r0 (R31), and the moves between a general register and a CP0 register
that nothing writes (R62, R380, R381). -/

namespace Sys2Proof.Machine

/-! General register 0. -/

/-- Settles O8: the reads and writes are those of the laws of `State.writeReg`. -/
theorem registerZero : Obligations.RegisterZero := by
  intro s i v
  refine ⟨s.reg_zero, s.writeReg_zero v, fun hi => ?_, fun j hj => s.writeReg_reg_other i j v hj⟩
  rw [State.writeReg_reg_same, if_neg hi]

/-! MFC0. -/

/-- Completing an instruction closes the window of a move of Status, so closing it again changes nothing (R387). -/
theorem State.retire_withWindows_noStatusMove (s : State) :
    s.retire.withWindows { s.retire.hidden.windows with afterStatusMove := false } = s.retire := rfl

/-- Only a read of Status opens a window (R387); of any other register MFC0 is a plain register result (R380). -/
theorem exec_mfc0_eq_writeAndComplete {s : State} (hu : s.usable 0#2 = true) (rt : RegIndex) {rd : RegIndex}
    (hrd : rd ≠ 12#5) : exec (.mfc0 rt rd) s = writeAndComplete s rt (s.readCp0 rd) := by
  change execMfc0 rt rd s = _
  simp only [execMfc0, State.withCop_usable hu, decide_eq_false hrd, State.retire_withWindows_noStatusMove]
  rfl

theorem exec_mfc0_delivers {s : State} (hu : s.usable 0#2 = true) (rt : RegIndex) {rd : RegIndex} (hrd : rd ≠ 12#5) :
    Delivers s (exec (.mfc0 rt rd) s) rt (s.readCp0 rd) := by
  rw [exec_mfc0_eq_writeAndComplete hu rt hrd]
  exact writeAndComplete_spec s rt _

@[simp] theorem State.readCp0_prid (s : State) : s.readCp0 15#5 = s.platform.prid := rfl

/-! MTC0 to a register that takes nothing. -/

/-- The CP0 registers with bits that MTC0 writes: Config, Cache, Status, Cause, Debug and DEPC (R382). -/
def writableCp0 : List RegIndex := [3#5, 7#5, 12#5, 13#5, 16#5, 17#5]

theorem State.writeCp0_of_not_writable (s : State) {rd : RegIndex} (hrd : rd ∉ writableCp0) (v : Word) :
    s.writeCp0 rd v = s := by
  simp only [writableCp0, List.mem_cons, List.not_mem_nil, or_false, not_or] at hrd
  simp [State.writeCp0, hrd]

/-- An MTC0 that leaves CP0 as it was opens no window (R384). -/
theorem openedWindows_of_not_writable (w : Windows) {rd : RegIndex} (hrd : rd ∉ writableCp0) (c : Cp0) :
    openedWindows w rd c c = w.age := by
  simp only [writableCp0, List.mem_cons, List.not_mem_nil, or_false, not_or] at hrd
  simp [openedWindows, Windows.age, hrd]

/-- A drained write buffer holds the bytes that the bus had already (R150), so completing after the draining of Halt or
Doze only advances. -/
theorem complete_drainIfStopped_spec (s : State) : OnlyAdvances s (complete s.drainIfStopped) := by
  refine ⟨s.drainIfStopped.retire, rfl, fun i => ?_, ⟨?_, ?_⟩, ⟨?_, ?_, rfl⟩, ?_, ⟨fun a => ?_, ?_, ?_, ?_, ?_⟩, ?_,
    State.retire_settled (by simp) (by simp) (by simp)⟩ <;> simp [State.settledCp0]

theorem exec_mtc0_of_not_writable {s : State} (hu : s.usable 0#2 = true) (hs : (s.cp0.halt && s.cp0.doze) = false)
    (rt : RegIndex) {rd : RegIndex} (hrd : rd ∉ writableCp0) :
    exec (.mtc0 rt rd) s = complete s.drainIfStopped := by
  have advanced : s.drainIfStopped.advance s.cp0.ice (s.nextPc + 4#32) .none = s.drainIfStopped.retire := by
    simp [State.retire]
  have windows : s.hidden.windows.age = s.drainIfStopped.retire.hidden.windows := by
    simp [State.retire, State.completedHidden]
  change execMtc0 rt rd s = _
  simp only [execMtc0, State.withCop_usable hu, s.writeCp0_of_not_writable hrd, hs, Bool.false_eq_true, if_false,
    openedWindows_of_not_writable _ hrd, advanced, windows]
  rfl

/-- A write to a read-only or reserved CP0 register is ignored (R62, R382, R383). -/
theorem exec_mtc0_ignored {s : State} (hu : s.usable 0#2 = true) (hs : (s.cp0.halt && s.cp0.doze) = false)
    (rt : RegIndex) {rd : RegIndex} (hrd : rd ∉ writableCp0) : OnlyAdvances s (exec (.mtc0 rt rd) s) := by
  rw [exec_mtc0_of_not_writable hu hs rt hrd]
  exact complete_drainIfStopped_spec s

/-! PRId. -/

/-- Settles O40: PRId is number 15, whose value is the platform's constant and which is not writable. -/
theorem processorId : Obligations.ProcessorId := by
  intro s rt hu
  refine ⟨?_, fun hs => exec_mtc0_ignored hu hs rt (by decide)⟩
  have delivered := exec_mfc0_delivers hu rt (rd := 15#5) (by decide)
  rwa [State.readCp0_prid] at delivered

end Sys2Proof.Machine
end
